-- ==== Sys2Proof/Word.lean ====
section
/-!
DEFINITION. The word types of the FGS film-grain block and the shape of its sparse storages.
-/

namespace Sys2Proof

/-- A register word, a command word or a sample-memory address (10_state.md R23, 20_memory.md R66). -/
abbrev Word := BitVec 32

/-- A byte of sample memory (20_memory.md R66). -/
abbrev Byte := BitVec 8

/-- A sparse storage of `n`-bit cells by number: strictly rising keys, a cell that is not listed holds no value. -/
abbrev Cells (n : Nat) := List (Nat × BitVec n)

/-- Sample memory: the bytes that hold a value, by address (the cells are `Host.Cell`s). -/
abbrev Memory := Cells 8

end Sys2Proof
end

