-- ==== Sys2Proof/Syntax.lean ====
section
/-!
DEFINITION. The 14 commands of the block (30_encoding.md R90), one constructor per row of spec/opcode_table.json.
-/

namespace Sys2Proof

/-- PLANE (30_encoding.md R97): bit 0 is U, bit 1 is V. -/
inductive Plane where
  | u
  | v
  deriving DecidableEq, Repr, Inhabited

/-- The commands, in the order of the opcode map (30_encoding.md R98), written with the operands of the assembler syntax
(R102): `prngStep n` draws n bits, 1 ≤ n ≤ 16; `isId` is IS_ID. -/
inductive Instr where
  | nop
  | prngLoad (imm16 : BitVec 16)
  | prngStep (n : Nat)
  | genGrainY
  | genGrainUV420 (plane : Plane)
  | genGrainUV422 (plane : Plane)
  | genGrainUV444 (plane : Plane)
  | genScalingY
  | genScalingU
  | genScalingV
  | applyY
  | applyUV420 (plane : Plane) (isId : Bool)
  | applyUV422 (plane : Plane) (isId : Bool)
  | applyUV444 (plane : Plane) (isId : Bool)
  deriving DecidableEq, Repr, Inhabited

end Sys2Proof
end

