-- ==== Sys2Proof/WellFormed.lean ====
section
/-!
DEFINITION. Which terms of `Instr` are commands the block has.
-/

namespace Sys2Proof

/-- The one operand whose type is wider than its field is PRNG_STEP's width: 1 ≤ n ≤ 16 (30_encoding.md R97, R102).
Every other operand is well formed by its type. -/
def Instr.wellFormed : Instr → Bool
  | .nop => true
  | .prngLoad _ => true
  | .prngStep n => decide (1 ≤ n) && decide (n ≤ 16)
  | .genGrainY => true
  | .genGrainUV420 _ => true
  | .genGrainUV422 _ => true
  | .genGrainUV444 _ => true
  | .genScalingY => true
  | .genScalingU => true
  | .genScalingV => true
  | .applyY => true
  | .applyUV420 _ _ => true
  | .applyUV422 _ _ => true
  | .applyUV444 _ _ => true

end Sys2Proof
end

