-- ==== Sys2Proof/Decode.lean ====
section
/-!
DEFINITION. The decoder (30_encoding.md R97 to R101), total on every word and on any bytes, and the encoder.
-/

namespace Sys2Proof

/-- PLANE as its bit (30_encoding.md R97). -/
def Plane.bit : Plane → Bool
  | .u => false
  | .v => true

/-- The plane of a PLANE bit (30_encoding.md R97). -/
def Plane.ofBit : Bool → Plane
  | false => .u
  | true => .v

/-- Why a word is no command (30_encoding.md R100); `truncated` is for fewer than the four bytes of a word (R91). -/
inductive DecodeError where
  | unassignedOpcode
  | layoutZero
  | tableThree
  | reservedBits
  | truncated
  deriving DecidableEq, Repr

/-- PLANE = word[10] (30_encoding.md R97). -/
def planeField (w : Word) : Plane := Plane.ofBit (w.getLsbD 10)

/-- IS_ID = word[11] (30_encoding.md R97). -/
def isIdField (w : Word) : Bool := w.getLsbD 11

/-- n = word[11:8] + 1 (30_encoding.md R97). -/
def widthField (w : Word) : Nat := (w.extractLsb' 8 4).toNat + 1

/-- IMM16 = word[31:16] (30_encoding.md R97). -/
def imm16Field (w : Word) : BitVec 16 := w.extractLsb' 16 16

/-- One row of the opcode map: `w &&& mask = value` selects it, `build` reads its fields. -/
structure OpcodeRow where
  mnemonic : String
  value    : Word
  mask     : Word
  build    : Word → Instr

/-- The opcode map of 30_encoding.md R98. -/
def opcodeRows : List OpcodeRow :=
  [ ⟨"NOP",              0x00000000, 0xFFFFFFFF, fun _ => .nop⟩,
    ⟨"PRNG_LOAD",        0x00000001, 0x0000FFFF, fun w => .prngLoad (imm16Field w)⟩,
    ⟨"PRNG_STEP",        0x00000002, 0xFFFFF0FF, fun w => .prngStep (widthField w)⟩,
    ⟨"GEN_GRAIN_Y",      0x00000010, 0xFFFFFFFF, fun _ => .genGrainY⟩,
    ⟨"GEN_GRAIN_UV_420", 0x00000111, 0xFFFFFBFF, fun w => .genGrainUV420 (planeField w)⟩,
    ⟨"GEN_GRAIN_UV_422", 0x00000211, 0xFFFFFBFF, fun w => .genGrainUV422 (planeField w)⟩,
    ⟨"GEN_GRAIN_UV_444", 0x00000311, 0xFFFFFBFF, fun w => .genGrainUV444 (planeField w)⟩ ] ++
  [ ⟨"GEN_SCALING_Y",    0x00000020, 0xFFFFFFFF, fun _ => .genScalingY⟩,
    ⟨"GEN_SCALING_U",    0x00000120, 0xFFFFFFFF, fun _ => .genScalingU⟩,
    ⟨"GEN_SCALING_V",    0x00000220, 0xFFFFFFFF, fun _ => .genScalingV⟩,
    ⟨"APPLY_Y",          0x00000030, 0xFFFFFFFF, fun _ => .applyY⟩,
    ⟨"APPLY_UV_420",     0x00000131, 0xFFFFF3FF, fun w => .applyUV420 (planeField w) (isIdField w)⟩,
    ⟨"APPLY_UV_422",     0x00000231, 0xFFFFF3FF, fun w => .applyUV422 (planeField w) (isIdField w)⟩,
    ⟨"APPLY_UV_444",     0x00000331, 0xFFFFF3FF, fun w => .applyUV444 (planeField w) (isIdField w)⟩ ]

/-- A row matches a word (30_encoding.md R98). -/
def OpcodeRow.matchesWord (r : OpcodeRow) (w : Word) : Bool := w &&& r.mask == r.value

/-- The assigned OPCODE bytes (30_encoding.md R100). -/
def assignedOpcodes : List Byte := [0x00, 0x01, 0x02, 0x10, 0x11, 0x20, 0x30, 0x31]

/-- The name of a word's illegality, in the cases of 30_encoding.md R100. -/
def illegalReason (w : Word) : DecodeError :=
  let op := w.extractLsb' 0 8
  let sel := w.extractLsb' 8 2
  if !assignedOpcodes.contains op then .unassignedOpcode
  else if (op == 0x11 || op == 0x31) && sel == 0 then .layoutZero
  else if op == 0x20 && sel == 3 then .tableThree
  else .reservedBits

/-- Decode (30_encoding.md R99): the row that matches, with its fields, or the illegality by name. -/
def decode (w : Word) : Except DecodeError Instr :=
  match opcodeRows.find? (fun r => r.matchesWord w) with
  | some r => .ok (r.build w)
  | none => .error (illegalReason w)

/-- The word of four bytes, byte k being bits 8k+7 to 8k (20_memory.md R62). -/
def wordOfBytes (b0 b1 b2 b3 : Byte) : Word := b3 ++ b2 ++ b1 ++ b0

/-- The bytes of a word, lowest first (20_memory.md R62). -/
def bytesOfWord (w : Word) : List Byte :=
  [w.extractLsb' 0 8, w.extractLsb' 8 8, w.extractLsb' 16 8, w.extractLsb' 24 8]

/-- Decoding the command word at the head of a list of bytes, with the rest of the list. -/
def decodeBytes : List Byte → Except DecodeError (Instr × List Byte)
  | b0 :: b1 :: b2 :: b3 :: rest =>
    match decode (wordOfBytes b0 b1 b2 b3) with
    | .ok i => .ok (i, rest)
    | .error e => .error e
  | _ => .error .truncated

/-- PLANE at its place in a command word (30_encoding.md R95, R96). -/
def planeBits (p : Plane) : Word := (BitVec.ofBool p.bit).setWidth 32 <<< 10

/-- IS_ID at its place in a command word (30_encoding.md R96). -/
def isIdBits (b : Bool) : Word := (BitVec.ofBool b).setWidth 32 <<< 11

/-- NB = n - 1 at its place in a command word (30_encoding.md R94, R97). -/
def widthBits (n : Nat) : Word := BitVec.ofNat 32 (n - 1) <<< 8

/-- The word of a well-formed command, from the formats of 30_encoding.md R92 to R96 and the fixed bits of R98. -/
def encode : Instr → Word
  | .nop => 0x00000000
  | .prngLoad imm => imm ++ 0x0001#16
  | .prngStep n => 0x00000002 ||| widthBits n
  | .genGrainY => 0x00000010
  | .genGrainUV420 p => 0x00000111 ||| planeBits p
  | .genGrainUV422 p => 0x00000211 ||| planeBits p
  | .genGrainUV444 p => 0x00000311 ||| planeBits p
  | .genScalingY => 0x00000020
  | .genScalingU => 0x00000120
  | .genScalingV => 0x00000220
  | .applyY => 0x00000030
  | .applyUV420 p b => 0x00000131 ||| planeBits p ||| isIdBits b
  | .applyUV422 p b => 0x00000231 ||| planeBits p ||| isIdBits b
  | .applyUV444 p b => 0x00000331 ||| planeBits p ||| isIdBits b

/-- The bytes of a command (20_memory.md R62, 30_encoding.md R91). -/
def encodeBytes (i : Instr) : List Byte := bytesOfWord (encode i)

/-- A row's bits as the opcode table numbers them: the low `nbits` bits of `w`, the bits above them zero. -/
def tableWord (nbits w : Nat) : Word := BitVec.ofNat 32 (w % 2 ^ nbits)

/-- What the decoder reads from the bytes of `tableWord nbits w`. -/
def decodeTableWord (nbits w : Nat) : Option Instr :=
  match decodeBytes (bytesOfWord (tableWord nbits w)) with
  | .ok (i, _) => some i
  | .error _ => none

end Sys2Proof
end

