-- ==== Sys2Proof/Machine/Arith.lean ====
section
/-!
DEFINITION. The arithmetic of the pseudocode (00_scope.md R9, R10; 45_control.md R194): unbounded integers, floor shifts.
-/

namespace Sys2Proof.Machine

/-- round2(x, n) = (x + ((1 << n) >> 1)) >> n, with an arithmetic shift (00_scope.md R10). -/
def round2 (x : Int) (n : Nat) : Int := (x + (((1 <<< n) >>> 1 : Nat) : Int)) >>> n

/-- clip3(lo, hi, v) (00_scope.md R9). -/
def clip3 (lo hi v : Int) : Int := if v < lo then lo else if v > hi then hi else v

end Sys2Proof.Machine
end

