-- ==== Sys2Proof/Config.lean ====
section
/-!
DEFINITION. The platform's named parameters (00_scope.md R7) and the free values of the model.
An OPEN parameter and a free value are opaque constants: no proof can see what they are.
-/

namespace Sys2Proof

/-- Direction of a sample-memory access (00_scope.md R12). -/
inductive Dir where
  | read
  | write
  deriving DecidableEq, Repr, Inhabited

/-- The bytes `first` to `last` of sample memory, both included. -/
structure AddrRange where
  first : Word
  last  : Word
  deriving DecidableEq, Repr, Inhabited

/-- Accesses the platform answers with a bus error: those of `width` bytes in direction `dir` at an address of `range`.
A list of them is the negation of the predicate MEM_OK of 00_scope.md R7; every predicate has such a list. -/
structure BusHole where
  range : AddrRange
  width : Nat
  dir   : Dir
  deriving DecidableEq, Repr, Inhabited

/-- SCALE_INDEX_MODE (00_scope.md R7, 42_scaling.md R144). -/
inductive ScaleIndexMode where
  | shift
  | interp
  deriving DecidableEq, Repr, Inhabited

/-- BLEND_W (43_apply_luma.md R153): the pairs (weight of old, weight of new) W(0,0), W(0,1) and W(1,0). -/
structure BlendWeights where
  w00 : Int × Int
  w01 : Int × Int
  w10 : Int × Int
  deriving DecidableEq, Repr, Inhabited

/-- The named parameters of 00_scope.md R7, constant while the machine runs. -/
structure Params where
  /-- GAUSS: a signed 12-bit value is exactly one of the range [-2048, 2047] that R7 lets a model assume. -/
  gauss          : Vector (BitVec 12) 2048
  scaleIndexMode : ScaleIndexMode
  blend          : BlendWeights
  /-- MEM_OK, as the accesses it is false of. -/
  busHoles       : List BusHole
  /-- Where the platform has side-effecting devices (20_memory.md R73). -/
  devices        : List AddrRange
  /-- BASE of the register window in the host's address space. -/
  base           : Word
  deriving DecidableEq, Repr, Inhabited

/-- GAUSS of the machine of `State.reset`: OPEN (00_scope.md R7, 91_not_in_source.md N14). -/
opaque Config.gauss : Vector (BitVec 12) 2048

/-- MEM_OK of the machine of `State.reset`: OPEN (00_scope.md R7). -/
opaque Config.busHoles : List BusHole

/-- The side-effecting devices of the platform of `State.reset`: OPEN (20_memory.md R73). -/
opaque Config.devices : List AddrRange

/-- BASE of the machine of `State.reset`: OPEN (00_scope.md R7). -/
opaque Config.base : Word

/-- BLEND_W's default (00_scope.md R7, 43_apply_luma.md R153). -/
def Config.defaultBlend : BlendWeights := { w00 := (27, 17), w01 := (17, 27), w10 := (23, 22) }

/-- Free value: what the n-th unspecified host read returns (20_memory.md R65, 10_state.md R40, R41). -/
opaque Config.freeWord : Nat → Word

/-- Free value: what sample memory holds at an address that nothing has stored to (20_memory.md R66; 70_reset_and_hazards.md
R230 leaves it alone). One byte for each address, the same at every read (20_memory.md R73). -/
opaque Config.powerOnByte : Nat → Byte

/-- Free value: the byte that the n-th abandoned or faulted command leaves at an address of its dst footprint
(60_exceptions.md R203, 70_reset_and_hazards.md R230). -/
opaque Config.freeByte : Nat → Nat → Byte

end Sys2Proof
end

