-- ==== Sys2Proof/Machine/State.lean ====
section
/-!
DEFINITION. The state of the block as plain data (10_state.md), the reasons a step can stop, and the state after reset.
-/

namespace Sys2Proof.Machine

/-- Why the machine stops with a fault. None of these is a hardware fault code: those are recorded in `Status` and the
machine goes on (60_exceptions.md R203). -/
inductive Fault where
  /-- The model fault UNINIT_READ (00_scope.md R13): raised by a GEN_GRAIN_UV or APPLY command that reads a grain cell or
  scaling entry that holds no value. Safe: the spec has a model refute the run. -/
  | uninitRead
  deriving DecidableEq, Repr

/-- Why a step has no meaning. -/
inductive Refusal where
  /-- Raised by an arm of `exec` whose instruction has no meaning yet (none at present). Safe. -/
  | notModelled (mnemonic : String)
  /-- Raised by an APPLY command whose dst footprint is neither its src footprint nor disjoint from it, or meets its luma
  footprint or the register window: 70_reset_and_hazards.md R240 says a model must refuse the configuration. Safe. -/
  | footprintOverlap
  /-- Raised by an APPLY command with a side-effecting device in its footprint: 20_memory.md R73 says a model must refuse
  such a configuration. Safe. -/
  | deviceInFootprint
  /-- Raised by a store of another bus master into a footprint of the running command: 70_reset_and_hazards.md R240 says a
  model must refuse the configuration. Safe. -/
  | footprintWritten
  deriving DecidableEq, Repr

/-- The hardware fault codes (60_exceptions.md R202); the reserved codes 7 to 15 are never reported. -/
inductive FaultCode where
  | none
  | illegalCmd
  | badParam
  | badGeometry
  | sampleRange
  | busError
  | busyWrite
  deriving DecidableEq, Repr, Inhabited

/-- CTRL (10_state.md R24). -/
structure Ctrl where
  irqEnDone  : Bool
  irqEnFault : Bool
  deriving DecidableEq, Repr, Inhabited

/-- STATUS (10_state.md R25). -/
structure Status where
  busy      : Bool
  done      : Bool
  fault     : Bool
  faultCode : FaultCode
  deriving DecidableEq, Repr, Inhabited

/-- CFG (10_state.md R27). -/
structure Cfg where
  bitdepth       : BitVec 2
  overlap        : Bool
  clipRestricted : Bool
  csfl           : Bool
  deriving DecidableEq, Repr, Inhabited

/-- SHIFTS (10_state.md R29). -/
structure Shifts where
  grainScaleShift : BitVec 2
  scalingShiftM8  : BitVec 2
  arCoeffShiftM6  : BitVec 2
  arLag           : BitVec 2
  deriving DecidableEq, Repr, Inhabited

/-- NUM_POINTS (10_state.md R30). -/
structure NumPoints where
  numY : BitVec 4
  numU : BitVec 4
  numV : BitVec 4
  deriving DecidableEq, Repr, Inhabited

/-- UV_U and UV_V (10_state.md R31). -/
structure UvReg where
  mult     : BitVec 8
  lumaMult : BitVec 8
  offset   : BitVec 9
  deriving DecidableEq, Repr, Inhabited

/-- The parameter registers (10_state.md R27 to R31) and banks (R37, R38); a bank is kept as its words, which have no
reserved bits. -/
structure FrameRegs where
  cfg       : Cfg
  seed      : BitVec 16
  shifts    : Shifts
  numPoints : NumPoints
  uvU       : UvReg
  uvV       : UvReg
  arY       : Vector Word 6
  arU       : Vector Word 8
  arV       : Vector Word 8
  yPoints   : Vector Word 7
  uPoints   : Vector Word 5
  vPoints   : Vector Word 5
  deriving DecidableEq, Repr, Inhabited

/-- The job registers (10_state.md R36). -/
structure JobRegs where
  dstAddr    : Word
  srcAddr    : Word
  stride     : Word
  width      : BitVec 16
  height     : BitVec 6
  rowNum     : BitVec 16
  lumaAddr   : Word
  lumaStride : Word
  deriving DecidableEq, Repr, Inhabited

/-- One move of an agent (00_scope.md R8). -/
inductive Event where
  /-- The host writes `value` in an access of `bits` bits at `offset` of the register window (20_memory.md R60, R61). -/
  | write (bits : Nat) (offset : BitVec 18) (value : Word)
  /-- The host reads in an access of `bits` bits at `offset` of the register window. -/
  | read (bits : Nat) (offset : BitVec 18)
  /-- The engine takes its step, if it has a command (60_exceptions.md R200). -/
  | engine
  /-- The platform resets the block (70_reset_and_hazards.md R230). -/
  | reset
  /-- The host or another bus master stores a byte into sample memory (20_memory.md R77, 70_reset_and_hazards.md R240). -/
  | sampleWrite (addr : Word) (value : Byte)
  deriving DecidableEq, Repr

/-- What the register bus answered to the last host access. -/
inductive Response where
  | none
  | written
  | data (value : Word)
  /-- The bus-error response of 20_memory.md R61. -/
  | busError
  deriving DecidableEq, Repr, Inhabited

/-- Everything 10_state.md gives the block, sample memory (20_memory.md R66), the platform's parameters (00_scope.md R7),
and the model's own `events`, `response` and `drawn`. -/
structure State where
  ctrl      : Ctrl
  status    : Status
  faultInfo : Word
  faultAddr : Word
  frame     : FrameRegs
  job       : JobRegs
  prngState : BitVec 16
  prngOut   : BitVec 16
  /-- Grain RAM (R40): cell (p, r, c) has number (p·74 + r)·82 + c. -/
  grain     : Cells 16
  /-- Scaling RAM (R41): entry (t, i) has number t·256 + i. -/
  scaling   : Cells 8
  /-- Sample memory. -/
  mem       : Memory
  /-- The command word the engine has accepted and not finished (60_exceptions.md R200). -/
  command   : Option Word
  /-- The coming moves, oldest first. -/
  events    : List Event
  response  : Response
  /-- How many free values have been taken. -/
  drawn     : Nat
  params    : Params
  deriving DecidableEq, Repr

/-- The parameter registers after reset (70_reset_and_hazards.md R231). -/
def FrameRegs.reset : FrameRegs :=
  { cfg := { bitdepth := 0, overlap := false, clipRestricted := false, csfl := false },
    seed := 0,
    shifts := { grainScaleShift := 0, scalingShiftM8 := 0, arCoeffShiftM6 := 0, arLag := 0 },
    numPoints := { numY := 0, numU := 0, numV := 0 },
    uvU := { mult := 0, lumaMult := 0, offset := 0 },
    uvV := { mult := 0, lumaMult := 0, offset := 0 },
    arY := Vector.replicate 6 0, arU := Vector.replicate 8 0, arV := Vector.replicate 8 0,
    yPoints := Vector.replicate 7 0, uPoints := Vector.replicate 5 0, vPoints := Vector.replicate 5 0 }

/-- The job registers after reset (70_reset_and_hazards.md R231). -/
def JobRegs.reset : JobRegs :=
  { dstAddr := 0, srcAddr := 0, stride := 0, width := 0, height := 0, rowNum := 0, lumaAddr := 0, lumaStride := 0 }

/-- The machine right after reset (10_state.md R44, 70_reset_and_hazards.md R230, R231), with sample memory that nothing has
stored to, no move waiting, and the platform's OPEN parameters left opaque. -/
def State.reset : State :=
  { ctrl := { irqEnDone := false, irqEnFault := false },
    status := { busy := false, done := false, fault := false, faultCode := .none },
    faultInfo := 0, faultAddr := 0,
    frame := FrameRegs.reset, job := JobRegs.reset,
    prngState := 0, prngOut := 0,
    grain := [], scaling := [], mem := [],
    command := none, events := [], response := .none, drawn := 0,
    params := { gauss := Config.gauss, scaleIndexMode := .shift, blend := Config.defaultBlend,
                busHoles := Config.busHoles, devices := Config.devices, base := Config.base } }

end Sys2Proof.Machine
end

