-- ==== Sys2Proof/Machine/Ops.lean ====
section
/-!
DEFINITION. The named operations on storages and memory, free values, completing a command, and raising a fault with its
counterpart, the host's clearing of it.
-/

namespace Sys2Proof.Machine

/-! Sparse storages -/

/-- The value of cell `k`, if it holds one. -/
def Cells.get {n : Nat} (m : Cells n) (k : Nat) : Option (BitVec n) :=
  match m with
  | [] => none
  | (a, v) :: rest => if a = k then some v else Cells.get rest k

/-- The cells at the front whose keys lie below `k`. -/
def Cells.below {n : Nat} (m : Cells n) (k : Nat) : Cells n := m.takeWhile (fun c => c.1 < k)

/-- The cells after those, without cell `k` itself. -/
def Cells.above {n : Nat} (m : Cells n) (k : Nat) : Cells n :=
  match m.dropWhile (fun c => c.1 < k) with
  | [] => []
  | c :: rest => if c.1 = k then rest else c :: rest

/-- Storing `v` in cell `k`. -/
def Cells.set {n : Nat} (m : Cells n) (k : Nat) (v : BitVec n) : Cells n := Cells.below m k ++ (k, v) :: Cells.above m k

/-- Storing every cell of `new`, whose keys rise strictly. -/
def Cells.overlay {n : Nat} (new old : Cells n) : Cells n :=
  match new with
  | [] => old
  | (k, v) :: rest => Cells.below old k ++ (k, v) :: Cells.overlay rest (Cells.above old k)

/-- Storing the cells of a list one after the other. -/
def Cells.setAll {n : Nat} (writes : List (Nat × BitVec n)) (m : Cells n) : Cells n :=
  writes.foldl (fun acc c => Cells.set acc c.1 c.2) m

/-- The canonical form: keys rise strictly and lie below `bound`. An unlisted cell holds no value, so no listed cell can
equal what it reads as. -/
def Cells.wf {n : Nat} (bound : Nat) (m : Cells n) : Bool :=
  match m with
  | [] => true
  | (k, _) :: rest => decide (k < bound) && rest.all (fun c => decide (k < c.1)) && Cells.wf bound rest

/-- The canonical form of sample memory (20_memory.md R66). -/
def Memory.wf (m : Memory) : Bool := Cells.wf (2 ^ 32) m

/-! Grain and scaling RAM -/

/-- The number of grain cell (p, r, c), as its place in the GRAIN window (10_state.md R40). -/
def grainIndex (p r c : Nat) : Nat := (p * 74 + r) * 82 + c

/-- How many cells the grain RAM has (10_state.md R40). -/
def grainCells : Nat := 3 * 74 * 82

/-- Grain[p][r][c] as a signed number, if the cell holds a value (10_state.md R40). -/
def grainAt (g : Cells 16) (p r c : Nat) : Option Int := (Cells.get g (grainIndex p r c)).map BitVec.toInt

/-- The number of scaling entry (t, i), as its place in the SCALING window (10_state.md R41). -/
def scalingIndex (t i : Nat) : Nat := t * 256 + i

/-- How many entries the scaling RAM has (10_state.md R41). -/
def scalingCells : Nat := 3 * 256

/-- Scal[t][i], if the entry holds a value (10_state.md R41). -/
def scalingAt (m : Cells 8) (t i : Nat) : Option Int := (Cells.get m (scalingIndex t i)).map (fun v => (v.toNat : Int))

/-! Sample memory -/

/-- The byte of sample memory last stored at an address; none where nothing has been stored. -/
def byteAt (m : Memory) (a : Word) : Option Byte := Cells.get m a.toNat

/-- The byte that a read of an address returns: the byte last stored there, and where nothing has been stored the byte that
memory happens to hold, a free value (20_memory.md R73, 93_implementation_defined.md U19). -/
def heldByte (m : Memory) (a : Word) : Byte := (byteAt m a).getD (Config.powerOnByte a.toNat)

/-- Storing one byte of sample memory. -/
def setByte (m : Memory) (a : Word) (v : Byte) : Memory := Cells.set m a.toNat v

/-- MemRead without its bus check: `n` bytes, little-endian, addresses modulo 2^32 (00_scope.md R12, 20_memory.md R66). -/
def memRead (m : Memory) (a : Word) : Nat → Nat
  | 0 => 0
  | n + 1 => (heldByte m a).toNat + 256 * memRead m (a + 1#32) n

/-- MemWrite without its bus check: the low 8·n bits of `v`, little-endian (00_scope.md R12). -/
def memWrite (m : Memory) (a : Word) : Nat → Nat → Memory
  | 0, _ => m
  | n + 1, v => memWrite (setByte m a (BitVec.ofNat 8 v)) (a + 1#32) n (v / 256)

/-- The addresses of the `n` bytes from `a` on. -/
def byteAddrs (a : Word) : Nat → List Word
  | 0 => []
  | n + 1 => a :: byteAddrs (a + 1#32) n

/-- An address lies in a range. -/
def AddrRange.holds (r : AddrRange) (a : Word) : Bool := decide (r.first.toNat ≤ a.toNat) && decide (a.toNat ≤ r.last.toNat)

/-- MEM_OK(addr, width, dir) (00_scope.md R7). -/
def memOk (p : Params) (a : Word) (n : Nat) (d : Dir) : Bool :=
  !p.busHoles.any (fun h => AddrRange.holds h.range a && h.width == n && h.dir == d)

/-! Free values -/

/-- The next unspecified host-read value (20_memory.md R65). -/
def State.freeWord (s : State) : Word := Config.freeWord s.drawn

/-- The state once a free value has been taken. -/
def State.takeFree (s : State) : State := { s with drawn := s.drawn + 1 }

/-- Every byte of `addrs` takes an unspecified value (60_exceptions.md R203, 70_reset_and_hazards.md R230). -/
def State.unspecify (addrs : List Word) (s : State) : State :=
  { s with
    mem := Cells.setAll (addrs.map (fun a => (a.toNat, Config.freeByte s.drawn a.toNat))) s.mem
    drawn := s.drawn + 1 }

/-! Updates of one storage -/

def State.setPrng (s : State) (r : BitVec 16) : State := { s with prngState := r }

def State.setPrngOut (s : State) (v : BitVec 16) : State := { s with prngOut := v }

def State.setGrain (s : State) (g : Cells 16) : State := { s with grain := g }

def State.setScaling (s : State) (t : Cells 8) : State := { s with scaling := t }

def State.setMem (s : State) (m : Memory) : State := { s with mem := m }

def State.setEvents (s : State) (es : List Event) : State := { s with events := es }

def State.respond (s : State) (r : Response) : State := { s with response := r }

/-! The life of a command -/

/-- Accepting a command word (60_exceptions.md R200): BUSY rises and DONE is not changed. -/
def State.accept (s : State) (w : Word) : State := { s with status := { s.status with busy := true }, command := some w }

/-- Completion (60_exceptions.md R201). -/
def State.complete (s : State) : State :=
  { s with status := { s.status with busy := false, done := true }, command := none }

/-- Recording a fault: the first fault wins (60_exceptions.md R203). -/
def State.recordFault (s : State) (code : FaultCode) (info addr : Word) : State :=
  if s.status.fault then s
  else
    { s with
      status := { s.status with fault := true, faultCode := code }
      faultInfo := info
      faultAddr := addr }

/-- The engine returns to idle without completing (60_exceptions.md R203): BUSY falls and DONE is not set. -/
def State.abandon (s : State) : State := { s with status := { s.status with busy := false }, command := none }

/-- A fault raised by a command (60_exceptions.md R203, R208): it is recorded and the command ends. -/
def State.raise (s : State) (code : FaultCode) (info addr : Word) : State := (s.recordFault code info addr).abandon

/-- The host's way back from a fault (60_exceptions.md R209, 10_state.md R25): FAULT, FAULT_CODE, FAULT_INFO and FAULT_ADDR
are cleared. -/
def State.clearFault (s : State) : State :=
  { s with status := { s.status with fault := false, faultCode := .none }, faultInfo := 0, faultAddr := 0 }

/-- Clearing DONE (10_state.md R25). -/
def State.clearDone (s : State) : State := { s with status := { s.status with done := false } }

end Sys2Proof.Machine
end

