-- ==== Sys2Proof/Machine/Flags.lean ====
section
/-!
DEFINITION. STATUS as the host sees it (10_state.md R25) and the interrupt line (R43, 60_exceptions.md R210). No command sets
arithmetic flags (10_state.md R22).
-/

namespace Sys2Proof.Machine

/-- The number of a fault code (60_exceptions.md R202). -/
def FaultCode.bits : FaultCode → BitVec 4
  | .none => 0
  | .illegalCmd => 1
  | .badParam => 2
  | .badGeometry => 3
  | .sampleRange => 4
  | .busError => 5
  | .busyWrite => 6

/-- The bit `b` at place `k` of a word. -/
def bitAt (k : Nat) (b : Bool) : Word := (BitVec.ofBool b).setWidth 32 <<< k

/-- The field `f` from place `k` of a word on. -/
def fieldAt {n : Nat} (k : Nat) (f : BitVec n) : Word := f.setWidth 32 <<< k

/-- STATUS as a word (10_state.md R25). -/
def Status.word (st : Status) : Word :=
  bitAt 0 st.busy ||| bitAt 1 st.done ||| bitAt 2 st.fault ||| fieldAt 8 st.faultCode.bits

/-- A write to STATUS: bit 1 clears DONE, bit 2 clears FAULT and its record (10_state.md R25). -/
def State.writeStatus (s : State) (v : Word) : State :=
  let s1 := if v.getLsbD 1 then s.clearDone else s
  if v.getLsbD 2 then s1.clearFault else s1

/-- IRQ (10_state.md R43, 60_exceptions.md R210). -/
def State.irq (s : State) : Bool :=
  (s.status.done && s.ctrl.irqEnDone) || (s.status.fault && s.ctrl.irqEnFault)

end Sys2Proof.Machine
end

