-- ==== Sys2Proof/Machine/Operands.lean ====
section
/-!
DEFINITION. What the registers hold as words and what commands read from them (10_state.md R24 to R39), sample addresses
(20_memory.md R67), and the draws from the generator (40_prng.md R110, R111).
-/

namespace Sys2Proof.Machine

/-! Register words. A write keeps exactly the bits of the fields, so reserved bits read 0 (10_state.md R39). -/

def Ctrl.word (c : Ctrl) : Word := bitAt 0 c.irqEnDone ||| bitAt 1 c.irqEnFault

def Ctrl.ofWord (v : Word) : Ctrl := { irqEnDone := v.getLsbD 0, irqEnFault := v.getLsbD 1 }

def Cfg.word (c : Cfg) : Word :=
  fieldAt 0 c.bitdepth ||| bitAt 4 c.overlap ||| bitAt 5 c.clipRestricted ||| bitAt 6 c.csfl

def Cfg.ofWord (v : Word) : Cfg :=
  { bitdepth := v.extractLsb' 0 2, overlap := v.getLsbD 4, clipRestricted := v.getLsbD 5, csfl := v.getLsbD 6 }

def Shifts.word (r : Shifts) : Word :=
  fieldAt 0 r.grainScaleShift ||| fieldAt 4 r.scalingShiftM8 ||| fieldAt 8 r.arCoeffShiftM6 ||| fieldAt 12 r.arLag

def Shifts.ofWord (v : Word) : Shifts :=
  { grainScaleShift := v.extractLsb' 0 2, scalingShiftM8 := v.extractLsb' 4 2,
    arCoeffShiftM6 := v.extractLsb' 8 2, arLag := v.extractLsb' 12 2 }

def NumPoints.word (r : NumPoints) : Word := fieldAt 0 r.numY ||| fieldAt 8 r.numU ||| fieldAt 16 r.numV

def NumPoints.ofWord (v : Word) : NumPoints :=
  { numY := v.extractLsb' 0 4, numU := v.extractLsb' 8 4, numV := v.extractLsb' 16 4 }

def UvReg.word (r : UvReg) : Word := fieldAt 0 r.mult ||| fieldAt 8 r.lumaMult ||| fieldAt 16 r.offset

def UvReg.ofWord (v : Word) : UvReg :=
  { mult := v.extractLsb' 0 8, lumaMult := v.extractLsb' 8 8, offset := v.extractLsb' 16 9 }

/-- Word `i` of a bank. -/
def bankWord {n : Nat} (bank : Vector Word n) (i : Nat) : Word := if h : i < n then bank[i] else 0

/-- Storing word `i` of a bank. -/
def setBankWord {n : Nat} (bank : Vector Word n) (i : Nat) (v : Word) : Vector Word n :=
  if h : i < n then bank.set i v else bank

/-! Depth of a sample (10_state.md R27) -/

/-- bd = 8 + 2·BITDEPTH. -/
def Cfg.bd (c : Cfg) : Nat := 8 + 2 * c.bitdepth.toNat

/-- b8 = bd - 8. -/
def Cfg.b8 (c : Cfg) : Nat := c.bd - 8

/-- bitdepthMax = 2^bd - 1. -/
def Cfg.sampleMax (c : Cfg) : Nat := 2 ^ c.bd - 1

/-- grain_min = -(128 << b8) (41_grain_tables.md R122). -/
def Cfg.grainMin (c : Cfg) : Int := -((128 <<< c.b8 : Nat) : Int)

/-- grain_max = (128 << b8) - 1 (41_grain_tables.md R122). -/
def Cfg.grainMax (c : Cfg) : Int := ((128 <<< c.b8 : Nat) : Int) - 1

/-- S, the bytes of a sample's container (20_memory.md R66). -/
def Cfg.container (c : Cfg) : Nat := if c.bd = 8 then 1 else 2

/-- BITDEPTH = 3 is illegal for GEN_GRAIN and APPLY commands (60_exceptions.md R204). -/
def Cfg.depthIllegal (c : Cfg) : Bool := c.bitdepth == 3

/-! Shift fields as the values used (10_state.md R29) -/

def Shifts.gss (r : Shifts) : Nat := r.grainScaleShift.toNat

def Shifts.scalingShift (r : Shifts) : Nat := r.scalingShiftM8.toNat + 8

def Shifts.arShift (r : Shifts) : Nat := r.arCoeffShiftM6.toNat + 6

def Shifts.lag (r : Shifts) : Nat := r.arLag.toNat

/-! Banks (10_state.md R37, R38) -/

/-- Coefficient `k` of a bank, sign-extended (10_state.md R37). -/
def coefficient {n : Nat} (bank : Vector Word n) (k : Nat) : Int :=
  ((bankWord bank (k / 4)).extractLsb' (8 * (k % 4)) 8).toInt

/-- A control point (10_state.md R38): intensity and strength, 0 to 255. -/
structure Point where
  x : Nat
  y : Nat
  deriving DecidableEq, Repr

/-- Point `i` of a bank (10_state.md R38). -/
def pointOf {n : Nat} (bank : Vector Word n) (i : Nat) : Point :=
  let h := (bankWord bank (i / 2)).extractLsb' (16 * (i % 2)) 16
  { x := (h.extractLsb' 0 8).toNat, y := (h.extractLsb' 8 8).toNat }

/-- The first `n` points of a bank. -/
def pointsOf {m : Nat} (bank : Vector Word m) (n : Nat) : List Point := (List.range n).map (pointOf bank)

/-! What PLANE selects (30_encoding.md R97) -/

/-- p. -/
def Plane.index : Plane → Nat
  | .u => 0
  | .v => 1

/-- Grain plane 1 + p. -/
def Plane.grainPlane (p : Plane) : Nat := 1 + Plane.index p

/-- Scaling table 1 + p. -/
def Plane.table (p : Plane) : Nat := 1 + Plane.index p

/-- UV_U or UV_V. -/
def FrameRegs.uv (f : FrameRegs) : Plane → UvReg
  | .u => f.uvU
  | .v => f.uvV

/-- AR_U or AR_V. -/
def FrameRegs.arUV (f : FrameRegs) : Plane → Vector Word 8
  | .u => f.arU
  | .v => f.arV

/-! What LAYOUT selects (30_encoding.md R97) -/

/-- Chroma subsampling, each factor 0 or 1. -/
structure Layout where
  sx : Nat
  sy : Nat
  deriving DecidableEq, Repr

/-- Luma has no subsampling (43_apply_luma.md). -/
def Layout.luma : Layout := { sx := 0, sy := 0 }

/-- 4:2:0. -/
def Layout.l420 : Layout := { sx := 1, sy := 1 }

/-- 4:2:2. -/
def Layout.l422 : Layout := { sx := 1, sy := 0 }

/-- 4:4:4. -/
def Layout.l444 : Layout := { sx := 0, sy := 0 }

/-! The generator (40_prng.md) -/

/-- The feedback bit of 40_prng.md R110. -/
def lfsrBit (r : BitVec 16) : Bool := r.getLsbD 0 ^^ r.getLsbD 1 ^^ r.getLsbD 3 ^^ r.getLsbD 12

/-- lfsr_step (40_prng.md R110). -/
def lfsrStep (r : BitVec 16) : BitVec 16 := (r >>> 1) ||| ((BitVec.ofBool (lfsrBit r)).setWidth 16 <<< 15)

/-- draw(r, n) (40_prng.md R111): the new state and its top n bits. -/
def draw (r : BitVec 16) (n : Nat) : BitVec 16 × Nat :=
  let r' := lfsrStep r
  (r', (r'.toNat >>> (16 - n)) % 2 ^ n)

/-- The state after `k` steps. -/
def lfsrAfter : Nat → BitVec 16 → BitVec 16
  | 0, r => r
  | k + 1, r => lfsrAfter k (lfsrStep r)

/-- GAUSS[v] of an 11-bit draw (00_scope.md R7). -/
def gaussAt (p : Params) (v : Nat) : Int := if h : v < 2048 then (p.gauss[v]).toInt else 0

/-! Sample addresses (20_memory.md R67) -/

/-- base + y·stride + x·S modulo 2^32, the stride signed. -/
def sampleAddr (base stride : Word) (size x y : Nat) : Word :=
  BitVec.ofInt 32 ((base.toNat : Int) + (y : Int) * stride.toInt + ((x * size : Nat) : Int))

def State.srcAddr (s : State) (x y : Nat) : Word := sampleAddr s.job.srcAddr s.job.stride s.frame.cfg.container x y

def State.dstAddr (s : State) (x y : Nat) : Word := sampleAddr s.job.dstAddr s.job.stride s.frame.cfg.container x y

def State.lumaAddr (s : State) (x y : Nat) : Word := sampleAddr s.job.lumaAddr s.job.lumaStride s.frame.cfg.container x y

/-- pw = WIDTH (10_state.md R36). -/
def State.pw (s : State) : Nat := s.job.width.toNat

/-- bh = HEIGHT (10_state.md R36). -/
def State.bh (s : State) : Nat := s.job.height.toNat

end Sys2Proof.Machine
end

