-- ==== Sys2Proof/Machine/Overlay.lean ====
section
/-!
DEFINITION. What the luma and chroma overlays share (43_apply_luma.md R150 to R154, 60_exceptions.md R205, R207,
42_scaling.md R144, 20_memory.md R69 to R73, 70_reset_and_hazards.md R240).
-/

namespace Sys2Proof.Machine

/-- What ends an APPLY command before its end: a hardware fault with its address, or a fault of the model. -/
inductive Stop where
  | hardware (code : FaultCode) (addr : Word)
  | model (f : Fault)
  deriving DecidableEq, Repr

/-- A sample to be written. -/
structure SampleWrite where
  addr  : Word
  value : Nat
  deriving DecidableEq, Repr

/-! Geometry (60_exceptions.md R205) -/

/-- The alignment of 20_memory.md R68, asked of 2-byte samples only. -/
def State.aligned (s : State) (uv : Bool) : Bool :=
  s.frame.cfg.container == 1 ||
    (!s.job.srcAddr.getLsbD 0 && !s.job.dstAddr.getLsbD 0 && !s.job.stride.getLsbD 0 &&
      (!uv || (!s.job.lumaAddr.getLsbD 0 && !s.job.lumaStride.getLsbD 0)))

/-- No check of 60_exceptions.md R205 fails. -/
def State.geometryOk (s : State) (lay : Layout) (uv : Bool) : Bool :=
  decide (s.pw ≠ 0) && decide (s.bh ≠ 0) && decide (s.bh ≤ 32 >>> lay.sy) && s.aligned uv

/-! Blocks and positions -/

/-- Columns of a block: 32 >> sx (43_apply_luma.md R150). -/
def Layout.blockW (lay : Layout) : Nat := 32 >>> lay.sx

/-- The width of block `b`: the last block may be narrower (43_apply_luma.md R150). -/
def blockWidth (lay : Layout) (pw b : Nat) : Nat := min lay.blockW (pw - b * lay.blockW)

/-- The samples (X, y) of a band in canonical order: blocks, then rows, then columns (43_apply_luma.md R150,
60_exceptions.md R207). -/
def bandSamples (lay : Layout) (pw bh : Nat) : List (Nat × Nat) :=
  (List.range ((pw + lay.blockW - 1) / lay.blockW)).flatMap (fun b =>
    (List.range bh).flatMap (fun y =>
      (List.range (blockWidth lay pw b)).map (fun x => (b * lay.blockW + x, y))))

/-! Footprints (20_memory.md R72) -/

def State.srcBytes (s : State) (lay : Layout) : List Word :=
  (bandSamples lay s.pw s.bh).flatMap (fun c => byteAddrs (s.srcAddr c.1 c.2) s.frame.cfg.container)

def State.dstBytes (s : State) (lay : Layout) : List Word :=
  (bandSamples lay s.pw s.bh).flatMap (fun c => byteAddrs (s.dstAddr c.1 c.2) s.frame.cfg.container)

/-- The luma sample addresses of chroma sample (X, y), in reading order (44_apply_chroma.md R172). -/
def State.lumaAddrs (s : State) (lay : Layout) (X y : Nat) : List Word :=
  if lay.sx = 1 then [s.lumaAddr (X <<< lay.sx) (y <<< lay.sy), s.lumaAddr ((X <<< lay.sx) + 1) (y <<< lay.sy)]
  else [s.lumaAddr (X <<< lay.sx) (y <<< lay.sy)]

/-- The luma bytes an APPLY_UV command reads; APPLY_Y reads none. -/
def State.lumaBytes (s : State) (lay : Layout) (uv : Bool) : List Word :=
  if uv then
    (bandSamples lay s.pw s.bh).flatMap (fun c =>
      (s.lumaAddrs lay c.1 c.2).flatMap (fun a => byteAddrs a s.frame.cfg.container))
  else []

/-- An address lies in the register window (20_memory.md R60). -/
def inWindow (base a : Word) : Bool := decide ((a - base).toNat < 0x40000)

/-- The dst footprint is the src footprint (the same start address: the two share the stride) or disjoint from it, and is
disjoint from the luma footprint and the register window (70_reset_and_hazards.md R240). -/
def State.footprintOk (s : State) (lay : Layout) (uv : Bool) : Bool :=
  let dst := s.dstBytes lay
  let src := s.srcBytes lay
  let luma := s.lumaBytes lay uv
  (s.job.dstAddr == s.job.srcAddr || dst.all (fun a => !src.contains a)) &&
    dst.all (fun a => !luma.contains a) &&
    dst.all (fun a => !inWindow s.params.base a)

/-- No side-effecting device stands in the footprint (20_memory.md R73). -/
def State.ordinaryMemory (s : State) (lay : Layout) (uv : Bool) : Bool :=
  (s.srcBytes lay ++ s.dstBytes lay ++ s.lumaBytes lay uv).all (fun a =>
    !s.params.devices.any (fun r => AddrRange.holds r a))

/-! Samples (20_memory.md R69, R70) -/

/-- ReadSample(addr) of 20_memory.md R69. -/
def State.readSample (s : State) (a : Word) : Except Stop Nat :=
  if memOk s.params a s.frame.cfg.container .read then
    let v := memRead s.mem a s.frame.cfg.container
    if s.frame.cfg.sampleMax < v then .error (.hardware .sampleRange a) else .ok v
  else .error (.hardware .busError a)

/-- The bus check of WriteSample(addr, v) and the write to be made (20_memory.md R70). -/
def State.sampleWrite (s : State) (a : Word) (v : Int) : Except Stop SampleWrite :=
  if memOk s.params a s.frame.cfg.container .write then .ok { addr := a, value := v.toNat }
  else .error (.hardware .busError a)

/-- Scal[t][i], or UNINIT_READ (00_scope.md R12, R13). -/
def State.scalingEntry (s : State) (t i : Nat) : Except Stop Int :=
  match scalingAt s.scaling t i with
  | some v => .ok v
  | none => .error (.model .uninitRead)

/-- ScaleLookup(t, v) (42_scaling.md R144). -/
def State.scaleLookup (s : State) (t v : Nat) : Except Stop Int :=
  let b8 := s.frame.cfg.b8
  let xi := v >>> b8
  match s.params.scaleIndexMode with
  | .shift => s.scalingEntry t xi
  | .interp =>
    if b8 = 0 ∨ xi = 255 then s.scalingEntry t xi
    else do
      let lo ← s.scalingEntry t xi
      let hi ← s.scalingEntry t (xi + 1)
      return lo + round2 ((hi - lo) * ((v - (xi <<< b8) : Nat) : Int)) b8

/-! Block offsets (43_apply_luma.md R151, R152) -/

/-- The seed of row band `n` (43_apply_luma.md R151). -/
def bandSeed (seed : BitVec 16) (n : Nat) : BitVec 16 :=
  seed ^^^ BitVec.ofNat 16 (((n * 37 + 178) &&& 0xFF) <<< 8) ^^^ BitVec.ofNat 16 ((n * 173 + 105) &&& 0xFF)

/-- The offset draw of block `b` of row band `n`: each block takes one 8-bit draw (43_apply_luma.md R152). -/
def blockOffset (seed : BitVec 16) (n b : Nat) : Nat := (draw (lfsrAfter b (bandSeed seed n)) 8).2

/-- offx (43_apply_luma.md R153). -/
def offsetX (lay : Layout) (rv : Nat) : Nat := 3 + (2 >>> lay.sx) * (3 + (rv >>> 4))

/-- offy (43_apply_luma.md R153). -/
def offsetY (lay : Layout) (rv : Nat) : Nat := 3 + (2 >>> lay.sy) * (3 + (rv &&& 15))

/-- The row of the grain cell that lut(c, i, x, y) reads in block `b` (43_apply_luma.md R153). -/
def lutRow (s : State) (lay : Layout) (b c i y : Nat) : Nat :=
  offsetY lay (blockOffset s.frame.seed (s.job.rowNum.toNat - i) (b - c)) + y + (32 >>> lay.sy) * i

/-- The column of the grain cell that lut(c, i, x, y) reads in block `b` (43_apply_luma.md R153). -/
def lutCol (s : State) (lay : Layout) (b c i x : Nat) : Nat :=
  offsetX lay (blockOffset s.frame.seed (s.job.rowNum.toNat - i) (b - c)) + x + (32 >>> lay.sx) * c

/-- lut(c, i, x, y) in block `b`, from grain plane `p` (43_apply_luma.md R153). -/
def State.lut (s : State) (lay : Layout) (p b c i x y : Nat) : Except Stop Int :=
  match grainAt s.grain p (lutRow s lay b c i y) (lutCol s lay b c i x) with
  | some v => .ok v
  | none => .error (.model .uninitRead)

/-! Blending (43_apply_luma.md R153, R154) -/

/-- W(s, j) (43_apply_luma.md R153). -/
def blendWeight (bw : BlendWeights) (sub j : Nat) : Int × Int :=
  if sub = 1 then bw.w10 else if j = 0 then bw.w00 else bw.w01

/-- blend(old, new, (w0, w1)) (43_apply_luma.md R153). -/
def blend (c : Cfg) (old new : Int) (w : Int × Int) : Int :=
  clip3 c.grainMin c.grainMax (round2 (old * w.1 + new * w.2) 5)

/-- Overlapped columns of block `b` (43_apply_luma.md R153). -/
def xStart (s : State) (lay : Layout) (b : Nat) : Nat :=
  if s.frame.cfg.overlap && decide (0 < b) then min (2 >>> lay.sx) (blockWidth lay s.pw b) else 0

/-- Overlapped rows (43_apply_luma.md R153). -/
def yStart (s : State) (lay : Layout) : Nat :=
  if s.frame.cfg.overlap && decide (s.job.rowNum ≠ 0) then min (2 >>> lay.sy) s.bh else 0

/-- G(x, y) of block `b` (43_apply_luma.md R154). -/
def State.grainValue (s : State) (lay : Layout) (p b x y : Nat) : Except Stop Int := do
  let wx := blendWeight s.params.blend lay.sx x
  let wy := blendWeight s.params.blend lay.sy y
  let cur ← s.lut lay p b 0 0 x y
  if xStart s lay b ≤ x then
    if yStart s lay ≤ y then return cur
    else
      let top ← s.lut lay p b 0 1 x y
      return blend s.frame.cfg top cur wy
  else if yStart s lay ≤ y then
    let left ← s.lut lay p b 1 0 x y
    return blend s.frame.cfg left cur wx
  else
    let topLeft ← s.lut lay p b 1 1 x y
    let top ← s.lut lay p b 0 1 x y
    let left ← s.lut lay p b 1 0 x y
    return blend s.frame.cfg (blend s.frame.cfg topLeft top wx) (blend s.frame.cfg left cur wx) wy

/-- The grain value of sample (X, y) of the band: X = bx + x in block bx / (32 >> sx) (43_apply_luma.md R150, R155). -/
def State.sampleGrain (s : State) (lay : Layout) (p X y : Nat) : Except Stop Int :=
  s.grainValue lay p (X / lay.blockW) (X % lay.blockW) y

/-! The band -/

/-- The samples of a list of positions, up to the first stop. -/
def collectSamples (sample : Nat → Nat → Except Stop SampleWrite) : List (Nat × Nat) → Except Stop (List SampleWrite)
  | [] => .ok []
  | c :: rest =>
    match sample c.1 c.2 with
    | .error e => .error e
    | .ok w =>
      match collectSamples sample rest with
      | .error e => .error e
      | .ok ws => .ok (w :: ws)

/-- Writing samples in order (20_memory.md R70). -/
def writeSamples (size : Nat) (ws : List SampleWrite) (m : Memory) : Memory :=
  ws.foldl (fun acc w => memWrite acc w.addr size w.value) m

/-- What an APPLY command does once its samples are computed or one of them has stopped it: a completed band is written
(43_apply_luma.md R160), a hardware fault leaves every dst sample unspecified (60_exceptions.md R203). -/
def finishBand (w : Word) (lay : Layout) (s : State) : Except Stop (List SampleWrite) → Host.Outcome State Fault Refusal
  | .ok ws => .next (s.setMem (writeSamples s.frame.cfg.container ws s.mem)).complete
  | .error (.hardware code a) => .next ((s.unspecify (s.dstBytes lay)).raise code w a)
  | .error (.model f) => .fault f

/-- One APPLY command: the checks in the order of 60_exceptions.md R207, then the band in canonical order. -/
def applyBand (w : Word) (lay : Layout) (uv : Bool) (sample : Nat → Nat → Except Stop SampleWrite) (s : State) :
    Host.Outcome State Fault Refusal :=
  if s.frame.cfg.depthIllegal then .next (s.raise .badParam w 0)
  else if !s.geometryOk lay uv then .next (s.raise .badGeometry w 0)
  else if !s.footprintOk lay uv then .refused .footprintOverlap
  else if !s.ordinaryMemory lay uv then .refused .deviceInFootprint
  else finishBand w lay s (collectSamples sample (bandSamples lay s.pw s.bh))

end Sys2Proof.Machine
end

