-- ==== Sys2Proof/Machine/ApplyChroma.lean ====
section
/-!
DEFINITION. APPLY_UV_420, APPLY_UV_422 and APPLY_UV_444 (44_apply_chroma.md).
-/

namespace Sys2Proof.Machine

/-- The output clip range of chroma (44_apply_chroma.md R178). -/
def Cfg.chromaRange (c : Cfg) (isId : Bool) : Int × Int :=
  if c.clipRestricted then (((16 <<< c.b8 : Nat) : Int), (((if isId then 235 else 240) <<< c.b8 : Nat) : Int))
  else (0, (c.sampleMax : Int))

/-- The co-located luma value of chroma sample (X, y) (44_apply_chroma.md R172). -/
def State.lumaAverage (s : State) (lay : Layout) (X y : Nat) : Except Stop Nat := do
  let first ← s.readSample (s.lumaAddr (X <<< lay.sx) (y <<< lay.sy))
  if lay.sx = 1 then
    let second ← s.readSample (s.lumaAddr ((X <<< lay.sx) + 1) (y <<< lay.sy))
    return (first + second + 1) >>> 1
  else return first

/-- The intensity key of mode (b) (44_apply_chroma.md R175). -/
def chromaKey (c : Cfg) (uv : UvReg) (avg v : Nat) : Nat :=
  let combined : Int := (avg : Int) * uv.lumaMult.toInt + (v : Int) * uv.mult.toInt
  (clip3 0 (c.sampleMax : Int) ((combined >>> (6 : Nat)) + uv.offset.toInt * ((1 <<< c.b8 : Nat) : Int))).toNat

/-- The strength of a chroma sample with source value `v` and luma value `avg` (44_apply_chroma.md R175). -/
def State.chromaStrength (s : State) (plane : Plane) (avg v : Nat) : Except Stop Int :=
  if s.frame.cfg.csfl then s.scaleLookup 0 avg
  else s.scaleLookup (Plane.table plane) (chromaKey s.frame.cfg (s.frame.uv plane) avg v)

/-- Chroma output sample (X, y) (44_apply_chroma.md R176). -/
def State.chromaSample (s : State) (lay : Layout) (plane : Plane) (isId : Bool) (X y : Nat) : Except Stop SampleWrite := do
  let v ← s.readSample (s.srcAddr X y)
  let avg ← s.lumaAverage lay X y
  let g ← s.sampleGrain lay (Plane.grainPlane plane) X y
  let strength ← s.chromaStrength plane avg v
  let noise := round2 (strength * g) s.frame.shifts.scalingShift
  s.sampleWrite (s.dstAddr X y)
    (clip3 (s.frame.cfg.chromaRange isId).1 (s.frame.cfg.chromaRange isId).2 ((v : Int) + noise))

/-- APPLY_UV(sx, sy, p, IS_ID) (44_apply_chroma.md section 3), for the command word `w`. -/
def applyUV (w : Word) (lay : Layout) (plane : Plane) (isId : Bool) (s : State) : Host.Outcome State Fault Refusal :=
  applyBand w lay true (s.chromaSample lay plane isId) s

/-- APPLY_UV_420 (44_apply_chroma.md R180). -/
def execApplyUV420 (plane : Plane) (isId : Bool) (s : State) : Host.Outcome State Fault Refusal :=
  applyUV (encode (.applyUV420 plane isId)) Layout.l420 plane isId s

/-- APPLY_UV_422 (44_apply_chroma.md R181). -/
def execApplyUV422 (plane : Plane) (isId : Bool) (s : State) : Host.Outcome State Fault Refusal :=
  applyUV (encode (.applyUV422 plane isId)) Layout.l422 plane isId s

/-- APPLY_UV_444 (44_apply_chroma.md R182). -/
def execApplyUV444 (plane : Plane) (isId : Bool) (s : State) : Host.Outcome State Fault Refusal :=
  applyUV (encode (.applyUV444 plane isId)) Layout.l444 plane isId s

end Sys2Proof.Machine
end

