-- ==== Sys2Proof/Machine/ApplyLuma.lean ====
section
/-!
DEFINITION. APPLY_Y (43_apply_luma.md).
-/

namespace Sys2Proof.Machine

/-- The output clip range of luma (43_apply_luma.md R156). -/
def Cfg.lumaRange (c : Cfg) : Int × Int :=
  if c.clipRestricted then (((16 <<< c.b8 : Nat) : Int), ((235 <<< c.b8 : Nat) : Int)) else (0, (c.sampleMax : Int))

/-- Luma output sample (X, y) (43_apply_luma.md R155). -/
def State.lumaSample (s : State) (X y : Nat) : Except Stop SampleWrite := do
  let v ← s.readSample (s.srcAddr X y)
  let g ← s.sampleGrain Layout.luma 0 X y
  let strength ← s.scaleLookup 0 v
  let noise := round2 (strength * g) s.frame.shifts.scalingShift
  s.sampleWrite (s.dstAddr X y) (clip3 s.frame.cfg.lumaRange.1 s.frame.cfg.lumaRange.2 ((v : Int) + noise))

/-- APPLY_Y (43_apply_luma.md R160). -/
def execApplyY (s : State) : Host.Outcome State Fault Refusal :=
  applyBand (encode .applyY) Layout.luma false s.lumaSample s

end Sys2Proof.Machine
end

