-- ==== Sys2Proof/Machine/Control.lean ====
section
/-!
DEFINITION. NOP (45_control.md).
-/

namespace Sys2Proof.Machine

/-- NOP (45_control.md R190): completes without effect. -/
def execNop (s : State) : Host.Outcome State Fault Refusal := .next s.complete

end Sys2Proof.Machine
end

