-- ==== Sys2Proof/Machine/Grain.lean ====
section
/-!
DEFINITION. Grain-table generation (41_grain_tables.md).
-/

namespace Sys2Proof.Machine

/-- A working grid of grain values, by rows. -/
abbrev Grid := List (List Int)

/-- The value at row y, column x. -/
def Grid.at (g : Grid) (y x : Nat) : Int := (g.getD y []).getD x 0

/-- The grid with `v` at row y, column x. -/
def Grid.put (g : Grid) (y x : Nat) (v : Int) : Grid := g.set y ((g.getD y []).set x v)

/-- Width of the grid of a layout (41_grain_tables.md R120). -/
def Layout.gridW (lay : Layout) : Nat := if lay.sx = 1 then 44 else 82

/-- Height of the grid of a layout (41_grain_tables.md R120). -/
def Layout.gridH (lay : Layout) : Nat := if lay.sy = 1 then 38 else 73

/-! Fill (41_grain_tables.md R121, R124, R127) -/

/-- The shift of an initial value: 4 - b8 + gss (41_grain_tables.md R121). -/
def FrameRegs.fillShift (f : FrameRegs) : Nat := 4 + f.shifts.gss - f.cfg.b8

/-- A row of `n` initial values drawn from state `r`, and the state after it. -/
def fillRow (p : Params) (shift : Nat) : Nat → BitVec 16 → List Int × BitVec 16
  | 0, r => ([], r)
  | n + 1, r =>
    let rest := fillRow p shift n (draw r 11).1
    (round2 (gaussAt p (draw r 11).2) shift :: rest.1, rest.2)

/-- `h` rows of `w` initial values in raster order, and the state after them. -/
def fillGrid (p : Params) (shift w : Nat) : Nat → BitVec 16 → Grid × BitVec 16
  | 0, r => ([], r)
  | h + 1, r =>
    let row := fillRow p shift w r
    let rest := fillGrid p shift w h row.2
    (row.1 :: rest.1, rest.2)

/-! AR pass (41_grain_tables.md R123, R125, R129) -/

/-- A tap (dy, dx): `up` = -dy rows above, column x + `col` - L, so dx = `col` - L. -/
structure Tap where
  up   : Nat
  col  : Nat
  deriving DecidableEq, Repr

/-- The taps of lag L in coefficient order: L full rows of 2L + 1 cells above, then L cells to the left (R123). -/
def taps (lag : Nat) : List Tap :=
  (List.range lag).flatMap (fun i => (List.range (2 * lag + 1)).map (fun j => { up := lag - i, col := j })) ++
    (List.range lag).map (fun j => { up := 0, col := j })

/-- The weighted sum of the neighbour taps of cell (y, x) (R125), tap number k with coefficient k. -/
def arSum (coef : Nat → Int) (lag : Nat) (g : Grid) (y x : Nat) : Int :=
  ((taps lag).zipIdx.map (fun t => coef t.2 * Grid.at g (y - t.1.up) (x + t.1.col - lag))).sum

/-- The AR region of an h × w grid in raster order: rows 3..h-1, columns 3..w-4 (R120). -/
def arRegion (h w : Nat) : List (Nat × Nat) :=
  (List.range (h - 3)).flatMap (fun i => (List.range (w - 6)).map (fun j => (i + 3, j + 3)))

/-- The filtered value of cell (y, x): `extra` is the luma tap's term (R125, R129). -/
def arValue (f : FrameRegs) (coef : Nat → Int) (extra : Nat → Nat → Int) (g : Grid) (y x : Nat) : Int :=
  clip3 f.cfg.grainMin f.cfg.grainMax
    (Grid.at g y x + round2 (arSum coef f.shifts.lag g y x + extra y x) f.shifts.arShift)

/-- The AR pass in place, in raster order (R125, R129). -/
def arPass (f : FrameRegs) (coef : Nat → Int) (extra : Nat → Nat → Int) (h w : Nat) (g : Grid) : Grid :=
  (arRegion h w).foldl (fun acc c => Grid.put acc c.1 c.2 (arValue f coef extra acc c.1 c.2)) g

/-- The finished grid of a layout and the generator state after its draws. -/
def grainGrid (s : State) (lay : Layout) (seed : BitVec 16) (coef : Nat → Int) (extra : Nat → Nat → Int) : Grid × BitVec 16 :=
  let filled := fillGrid s.params s.frame.fillShift lay.gridW lay.gridH seed
  (arPass s.frame coef extra lay.gridH lay.gridW filled.1, filled.2)

/-- The cells of a grid as cells of grain plane `p` (10_state.md R40). -/
def gridCells (p : Nat) (g : Grid) : Cells 16 :=
  g.zipIdx.flatMap (fun row => row.1.zipIdx.map (fun c => (grainIndex p row.2 c.2, BitVec.ofInt 16 c.1)))

/-- Writing a finished grid into plane `p` and leaving the final state in PRNG_STATE (10_state.md R32). -/
def State.storeGrid (s : State) (p : Nat) (g : Grid × BitVec 16) : State :=
  (s.setGrain (Cells.overlay (gridCells p g.1) s.grain)).setPrng g.2

/-! Luma -/

/-- GEN_GRAIN_Y's grid (41_grain_tables.md R124, R125). -/
def lumaGrid (s : State) : Grid × BitVec 16 :=
  grainGrid s Layout.luma s.frame.seed (coefficient s.frame.arY) (fun _ _ => 0)

/-- GEN_GRAIN_Y (41_grain_tables.md R126). -/
def execGenGrainY (s : State) : Host.Outcome State Fault Refusal :=
  if s.frame.cfg.depthIllegal then .next (s.raise .badParam (encode .genGrainY) 0)
  else .next (s.storeGrid 0 (lumaGrid s)).complete

/-! Chroma -/

/-- The first generator state of a chroma plane (41_grain_tables.md R127). -/
def chromaSeed (seed : BitVec 16) : Plane → BitVec 16
  | .u => seed ^^^ 0xB524
  | .v => seed ^^^ 0x49D8

/-- The luma cells that the luma tap of chroma cell (y, x) averages (41_grain_tables.md R128). -/
def lumaTapCells (lay : Layout) (y x : Nat) : List (Nat × Nat) :=
  (List.range (lay.sy + 1)).flatMap (fun i =>
    (List.range (lay.sx + 1)).map (fun j => (((y - 3) <<< lay.sy) + 3 + i, ((x - 3) <<< lay.sx) + 3 + j)))

/-- The average luma grain of chroma cell (y, x) (41_grain_tables.md R128). -/
def lumaTapAverage (g : Cells 16) (lay : Layout) (y x : Nat) : Int :=
  round2 ((lumaTapCells lay y x).map (fun c => (grainAt g 0 c.1 c.2).getD 0)).sum (lay.sx + lay.sy)

/-- The luma tap's term of the AR sum; none when NUM_Y = 0 (41_grain_tables.md R128). -/
def lumaTapTerm (s : State) (lay : Layout) (plane : Plane) (y x : Nat) : Int :=
  if s.frame.numPoints.numY = 0 then 0
  else
    lumaTapAverage s.grain lay y x *
      coefficient (s.frame.arUV plane) (2 * s.frame.shifts.lag * (s.frame.shifts.lag + 1))

/-- Every luma cell a GEN_GRAIN_UV command reads holds a value (41_grain_tables.md R128, 00_scope.md R13). -/
def lumaHeld (s : State) (lay : Layout) : Bool :=
  (arRegion lay.gridH lay.gridW).all (fun c =>
    (lumaTapCells lay c.1 c.2).all (fun l => (grainAt s.grain 0 l.1 l.2).isSome))

/-- GEN_GRAIN_UV's grid (41_grain_tables.md R127, R129). -/
def chromaGrid (s : State) (lay : Layout) (plane : Plane) : Grid × BitVec 16 :=
  grainGrid s lay (chromaSeed s.frame.seed plane) (coefficient (s.frame.arUV plane)) (lumaTapTerm s lay plane)

/-- GEN_GRAIN_UV (41_grain_tables.md R130), for the command word `w`. -/
def genGrainUV (w : Word) (lay : Layout) (plane : Plane) (s : State) : Host.Outcome State Fault Refusal :=
  if s.frame.cfg.depthIllegal then .next (s.raise .badParam w 0)
  else if s.frame.numPoints.numY ≠ 0 && !lumaHeld s lay then .fault .uninitRead
  else .next (s.storeGrid (Plane.grainPlane plane) (chromaGrid s lay plane)).complete

/-- GEN_GRAIN_UV_420 (41_grain_tables.md R131). -/
def execGenGrainUV420 (plane : Plane) (s : State) : Host.Outcome State Fault Refusal :=
  genGrainUV (encode (.genGrainUV420 plane)) Layout.l420 plane s

/-- GEN_GRAIN_UV_422 (41_grain_tables.md R132). -/
def execGenGrainUV422 (plane : Plane) (s : State) : Host.Outcome State Fault Refusal :=
  genGrainUV (encode (.genGrainUV422 plane)) Layout.l422 plane s

/-- GEN_GRAIN_UV_444 (41_grain_tables.md R133). -/
def execGenGrainUV444 (plane : Plane) (s : State) : Host.Outcome State Fault Refusal :=
  genGrainUV (encode (.genGrainUV444 plane)) Layout.l444 plane s

end Sys2Proof.Machine
end

