-- ==== Sys2Proof/Machine/Prng.lean ====
section
/-!
DEFINITION. PRNG_LOAD and PRNG_STEP (40_prng.md).
-/

namespace Sys2Proof.Machine

/-- PRNG_LOAD (40_prng.md R112). -/
def execPrngLoad (imm16 : BitVec 16) (s : State) : Host.Outcome State Fault Refusal := .next (s.setPrng imm16).complete

/-- PRNG_STEP (40_prng.md R113). -/
def execPrngStep (n : Nat) (s : State) : Host.Outcome State Fault Refusal :=
  .next ((s.setPrng (draw s.prngState n).1).setPrngOut (BitVec.ofNat 16 (draw s.prngState n).2)).complete

end Sys2Proof.Machine
end

