-- ==== Sys2Proof/Machine/Scaling.lean ====
section
/-!
DEFINITION. Scaling-table synthesis (42_scaling.md).
-/

namespace Sys2Proof.Machine

/-- The x values rise strictly (42_scaling.md R141). -/
def pointsRise : List Point → Bool
  | p :: q :: rest => decide (p.x < q.x) && pointsRise (q :: rest)
  | _ => true

/-- The checks of 42_scaling.md R141 for a point count `n` with the largest legal count `nmax`. -/
def pointsLegal (n nmax : Nat) (pts : List Point) : Bool := decide (2 ≤ n) && decide (n ≤ nmax) && pointsRise pts

/-- Entry `j` of the segment from p to q (42_scaling.md R142). -/
def segmentValue (p q : Point) (j : Nat) : Int :=
  let dx := q.x - p.x
  let delta := ((q.y : Int) - (p.y : Int)) * (((65536 + (dx >>> 1)) / dx : Nat) : Int)
  (p.y : Int) + (((j : Int) * delta + 32768) >>> (16 : Nat))

/-- The segments and the last point, for v not below the first point (42_scaling.md R142). -/
def segmentsValue : List Point → Nat → Int
  | [], _ => 0
  | [p], _ => (p.y : Int)
  | p :: q :: rest, v => if v < q.x then segmentValue p q (v - p.x) else segmentsValue (q :: rest) v

/-- T[v] (42_scaling.md R142). -/
def scalingValue (pts : List Point) (v : Nat) : Int :=
  match pts with
  | [] => 0
  | p :: rest => if v < p.x then (p.y : Int) else segmentsValue (p :: rest) v

/-- T[0..255] as the entries of table `t` (42_scaling.md R143). -/
def tableCells (t : Nat) (pts : List Point) : Cells 8 :=
  (List.range 256).map (fun v => (scalingIndex t v, BitVec.ofInt 8 (scalingValue pts v)))

/-- GEN_SCALING for table `t` (42_scaling.md R140 to R143). -/
def genScaling (w : Word) (t n nmax : Nat) (pts : List Point) (s : State) : Host.Outcome State Fault Refusal :=
  if pointsLegal n nmax pts then .next (s.setScaling (Cells.overlay (tableCells t pts) s.scaling)).complete
  else .next (s.raise .badParam w 0)

/-- GEN_SCALING_Y (42_scaling.md R145). -/
def execGenScalingY (s : State) : Host.Outcome State Fault Refusal :=
  genScaling (encode .genScalingY) 0 s.frame.numPoints.numY.toNat 14
    (pointsOf s.frame.yPoints s.frame.numPoints.numY.toNat) s

/-- GEN_SCALING_U (42_scaling.md R146). -/
def execGenScalingU (s : State) : Host.Outcome State Fault Refusal :=
  genScaling (encode .genScalingU) 1 s.frame.numPoints.numU.toNat 10
    (pointsOf s.frame.uPoints s.frame.numPoints.numU.toNat) s

/-- GEN_SCALING_V (42_scaling.md R147). -/
def execGenScalingV (s : State) : Host.Outcome State Fault Refusal :=
  genScaling (encode .genScalingV) 2 s.frame.numPoints.numV.toNat 10
    (pointsOf s.frame.vPoints s.frame.numPoints.numV.toNat) s

end Sys2Proof.Machine
end

