-- ==== Sys2Proof/Machine/Dispatch.lean ====
section
/-!
DEFINITION. The meaning of every command, one arm per constructor of `Instr` (30_encoding.md R90).
-/

namespace Sys2Proof.Machine

def exec (i : Instr) (s : State) : Host.Outcome State Fault Refusal :=
  match i with
  | .nop => Sys2Proof.Machine.execNop s
  | .prngLoad imm16 => Sys2Proof.Machine.execPrngLoad imm16 s
  | .prngStep n => Sys2Proof.Machine.execPrngStep n s
  | .genGrainY => Sys2Proof.Machine.execGenGrainY s
  | .genGrainUV420 plane => Sys2Proof.Machine.execGenGrainUV420 plane s
  | .genGrainUV422 plane => Sys2Proof.Machine.execGenGrainUV422 plane s
  | .genGrainUV444 plane => Sys2Proof.Machine.execGenGrainUV444 plane s
  | .genScalingY => Sys2Proof.Machine.execGenScalingY s
  | .genScalingU => Sys2Proof.Machine.execGenScalingU s
  | .genScalingV => Sys2Proof.Machine.execGenScalingV s
  | .applyY => Sys2Proof.Machine.execApplyY s
  | .applyUV420 plane isId => Sys2Proof.Machine.execApplyUV420 plane isId s
  | .applyUV422 plane isId => Sys2Proof.Machine.execApplyUV422 plane isId s
  | .applyUV444 plane isId => Sys2Proof.Machine.execApplyUV444 plane isId s

end Sys2Proof.Machine
end

