-- ==== Sys2Proof/Machine/Window.lean ====
section
/-!
DEFINITION. The register window as the host reads and writes it (10_state.md R23, 20_memory.md R60 to R65,
60_exceptions.md R200, R206).
-/

namespace Sys2Proof.Machine

/-- What stands at an aligned offset of the window (10_state.md R23); a bank or RAM word carries its number. -/
inductive Slot where
  | ctrl
  | status
  | cmd
  | faultInfo
  | faultAddr
  | cfg
  | seed
  | shifts
  | numPoints
  | uvU
  | uvV
  | prngState
  | prngOut
  | dstAddr
  | srcAddr
  | stride
  | width
  | height
  | rowNum
  | lumaAddr
  | lumaStride
  | arY (i : Nat)
  | arU (i : Nat)
  | arV (i : Nat)
  | yPoints (i : Nat)
  | uPoints (i : Nat)
  | vPoints (i : Nat)
  | grain (i : Nat)
  | scaling (i : Nat)
  | reserved
  deriving DecidableEq, Repr

/-- The single registers by their offsets (10_state.md R23). -/
def registerSlots : List (Nat × Slot) :=
  [ (0x000, .ctrl), (0x004, .status), (0x008, .cmd), (0x00C, .faultInfo), (0x010, .faultAddr), (0x014, .cfg),
    (0x018, .seed), (0x01C, .shifts), (0x020, .numPoints), (0x024, .uvU), (0x028, .uvV), (0x02C, .prngState),
    (0x030, .prngOut), (0x040, .dstAddr), (0x044, .srcAddr), (0x048, .stride), (0x04C, .width), (0x050, .height),
    (0x054, .rowNum), (0x058, .lumaAddr), (0x05C, .lumaStride) ]

/-- The banks and RAM windows: first offset, number of words, and the slot of word `i` (10_state.md R23). -/
def arraySlots : List (Nat × Nat × (Nat → Slot)) :=
  [ (0x100, 6, .arY), (0x120, 8, .arU), (0x140, 8, .arV), (0x180, 7, .yPoints), (0x1A0, 5, .uPoints),
    (0x1C0, 5, .vPoints), (0x10000, grainCells, .grain), (0x30000, scalingCells, .scaling) ]

/-- The slot at an aligned offset; every offset not listed is reserved (20_memory.md R63). -/
def slotOf (offset : BitVec 18) : Slot :=
  match registerSlots.find? (fun r => r.1 == offset.toNat) with
  | some r => r.2
  | none =>
    match arraySlots.find? (fun a => decide (a.1 ≤ offset.toNat) && decide (offset.toNat < a.1 + 4 * a.2.1)) with
    | some a => a.2.2 ((offset.toNat - a.1) / 4)
    | none => .reserved

/-- A host access the block takes: 32 bits wide at a multiple of 4 (20_memory.md R60, R61). -/
def accessLegal (bits : Nat) (offset : BitVec 18) : Bool := bits == 32 && offset.toNat % 4 == 0

/-- The word the host reads from a slot while the block is idle; none for a RAM cell that holds no value (10_state.md R40,
R41). CMD and reserved offsets read 0 (R26, 20_memory.md R63). -/
def readSlot (s : State) : Slot → Option Word
  | .ctrl => some s.ctrl.word
  | .status => some s.status.word
  | .cmd => some 0
  | .faultInfo => some s.faultInfo
  | .faultAddr => some s.faultAddr
  | .cfg => some s.frame.cfg.word
  | .seed => some (s.frame.seed.setWidth 32)
  | .shifts => some s.frame.shifts.word
  | .numPoints => some s.frame.numPoints.word
  | .uvU => some s.frame.uvU.word
  | .uvV => some s.frame.uvV.word
  | .prngState => some (s.prngState.setWidth 32)
  | .prngOut => some (s.prngOut.setWidth 32)
  | .dstAddr => some s.job.dstAddr
  | .srcAddr => some s.job.srcAddr
  | .stride => some s.job.stride
  | .width => some (s.job.width.setWidth 32)
  | .height => some (s.job.height.setWidth 32)
  | .rowNum => some (s.job.rowNum.setWidth 32)
  | .lumaAddr => some s.job.lumaAddr
  | .lumaStride => some s.job.lumaStride
  | .arY i => some (bankWord s.frame.arY i)
  | .arU i => some (bankWord s.frame.arU i)
  | .arV i => some (bankWord s.frame.arV i)
  | .yPoints i => some (bankWord s.frame.yPoints i)
  | .uPoints i => some (bankWord s.frame.uPoints i)
  | .vPoints i => some (bankWord s.frame.vPoints i)
  | .grain i => (Cells.get s.grain i).map (fun c => c.signExtend 32)
  | .scaling i => (Cells.get s.scaling i).map (fun c => c.setWidth 32)
  | .reserved => some 0

/-- The slots the host may read while BUSY = 1 with their current value (20_memory.md R65). -/
def Slot.readableWhileBusy : Slot → Bool
  | .ctrl | .status | .faultInfo | .faultAddr => true
  | _ => false

/-- The slots the host may write while BUSY = 1 (60_exceptions.md R206). -/
def Slot.writableWhileBusy : Slot → Bool
  | .ctrl | .status => true
  | _ => false

/-- A CMD write while BUSY = 0 (60_exceptions.md R200): dropped while FAULT = 1, else accepted. -/
def State.issue (s : State) (w : Word) : State := if s.status.fault then s else s.accept w

/-- The host write of `v` to a slot that is not dropped (10_state.md R23 to R41, 20_memory.md R64). -/
def writeSlot (s : State) (v : Word) : Slot → State
  | .ctrl => { s with ctrl := Ctrl.ofWord v }
  | .status => s.writeStatus v
  | .cmd => s.issue v
  | .faultInfo => s
  | .faultAddr => s
  | .cfg => { s with frame := { s.frame with cfg := Cfg.ofWord v } }
  | .seed => { s with frame := { s.frame with seed := v.setWidth 16 } }
  | .shifts => { s with frame := { s.frame with shifts := Shifts.ofWord v } }
  | .numPoints => { s with frame := { s.frame with numPoints := NumPoints.ofWord v } }
  | .uvU => { s with frame := { s.frame with uvU := UvReg.ofWord v } }
  | .uvV => { s with frame := { s.frame with uvV := UvReg.ofWord v } }
  | .prngState => s.setPrng (v.setWidth 16)
  | .prngOut => s
  | .dstAddr => { s with job := { s.job with dstAddr := v } }
  | .srcAddr => { s with job := { s.job with srcAddr := v } }
  | .stride => { s with job := { s.job with stride := v } }
  | .width => { s with job := { s.job with width := v.setWidth 16 } }
  | .height => { s with job := { s.job with height := v.setWidth 6 } }
  | .rowNum => { s with job := { s.job with rowNum := v.setWidth 16 } }
  | .lumaAddr => { s with job := { s.job with lumaAddr := v } }
  | .lumaStride => { s with job := { s.job with lumaStride := v } }
  | .arY i => { s with frame := { s.frame with arY := setBankWord s.frame.arY i v } }
  | .arU i => { s with frame := { s.frame with arU := setBankWord s.frame.arU i v } }
  | .arV i => { s with frame := { s.frame with arV := setBankWord s.frame.arV i v } }
  | .yPoints i => { s with frame := { s.frame with yPoints := setBankWord s.frame.yPoints i v } }
  | .uPoints i => { s with frame := { s.frame with uPoints := setBankWord s.frame.uPoints i v } }
  | .vPoints i => { s with frame := { s.frame with vPoints := setBankWord s.frame.vPoints i v } }
  | .grain i => s.setGrain (Cells.set s.grain i (v.setWidth 16))
  | .scaling i => s.setScaling (Cells.set s.scaling i (v.setWidth 8))
  | .reserved => s

/-- A host write (20_memory.md R61, R64; 60_exceptions.md R206): a write that is dropped while BUSY raises BUSY_WRITE with
the offset's low 16 bits, which does not end the command. -/
def hostWrite (bits : Nat) (offset : BitVec 18) (v : Word) (s : State) : State :=
  if !accessLegal bits offset then s.respond .busError
  else if s.status.busy && !(slotOf offset).writableWhileBusy then
    (s.recordFault .busyWrite ((offset.setWidth 16).setWidth 32) 0).respond .written
  else (writeSlot s v (slotOf offset)).respond .written

/-- A host read (20_memory.md R61, R64, R65): no side effect on the block; an unspecified value is a free value. -/
def hostRead (bits : Nat) (offset : BitVec 18) (s : State) : State :=
  if !accessLegal bits offset then s.respond .busError
  else if s.status.busy && !(slotOf offset).readableWhileBusy then (s.respond (.data s.freeWord)).takeFree
  else
    match readSlot s (slotOf offset) with
    | some v => s.respond (.data v)
    | none => (s.respond (.data s.freeWord)).takeFree

end Sys2Proof.Machine
end

