-- ==== Sys2Proof/Machine/Engine.lean ====
section
/-!
DEFINITION. The moves of the agents: the engine's step (60_exceptions.md R200), reset (70_reset_and_hazards.md R230), stores
of other bus masters (R240), and the order in which they happen (00_scope.md R8).
-/

namespace Sys2Proof.Machine

/-- The engine's atomic step (60_exceptions.md R200): an illegal word raises ILLEGAL_CMD, a command is executed; without a
command the engine is idle (R220). -/
def engineStep (s : State) : Host.Outcome State Fault Refusal :=
  match s.command with
  | none => .next s
  | some w =>
    match decode w with
    | .ok i => exec i s
    | .error _ => .next (s.raise .illegalCmd w 0)

/-- The layout of an APPLY command, and whether it is an APPLY_UV. -/
def applyLayout : Instr → Option (Layout × Bool)
  | .applyY => some (Layout.luma, false)
  | .applyUV420 _ _ => some (Layout.l420, true)
  | .applyUV422 _ _ => some (Layout.l422, true)
  | .applyUV444 _ _ => some (Layout.l444, true)
  | .nop => none
  | .prngLoad _ => none
  | .prngStep _ => none
  | .genGrainY => none
  | .genGrainUV420 _ => none
  | .genGrainUV422 _ => none
  | .genGrainUV444 _ => none
  | .genScalingY => none
  | .genScalingU => none
  | .genScalingV => none

/-- The layout of the APPLY command in progress, if there is one and it has passed the checks that precede every sample
access (60_exceptions.md R204, R205): only then does it have a footprint. -/
def State.runningApply (s : State) : Option (Layout × Bool) :=
  match s.command with
  | none => none
  | some w =>
    match decode w with
    | .error _ => none
    | .ok i =>
      match applyLayout i with
      | none => none
      | some (lay, uv) => if !s.frame.cfg.depthIllegal && s.geometryOk lay uv then some (lay, uv) else none

/-- The registers, the RAMs and the engine after reset; sample memory, the waiting moves, the free values and the platform
stay (70_reset_and_hazards.md R230). -/
def State.clearBlock (s : State) : State :=
  { State.reset with mem := s.mem, events := s.events, drawn := s.drawn, params := s.params }

/-- Reset (70_reset_and_hazards.md R230): an APPLY command in progress is abandoned and leaves every dst sample of its
footprint unspecified. -/
def resetBlock (s : State) : State :=
  match s.runningApply with
  | none => s.clearBlock
  | some (lay, _) => (s.unspecify (s.dstBytes lay)).clearBlock

/-- A store of the host or of another bus master into sample memory; into a footprint of the running command it is refused
(70_reset_and_hazards.md R240). -/
def storeSample (a : Word) (v : Byte) (s : State) : Host.Outcome State Fault Refusal :=
  match s.runningApply with
  | none => .next (s.setMem (setByte s.mem a v))
  | some (lay, uv) =>
    if (s.srcBytes lay).contains a || (s.dstBytes lay).contains a || (s.lumaBytes lay uv).contains a then
      .refused .footprintWritten
    else .next (s.setMem (setByte s.mem a v))

/-- One move. -/
def takeEvent (e : Event) (s : State) : Host.Outcome State Fault Refusal :=
  match e with
  | .write bits offset v => .next (hostWrite bits offset v s)
  | .read bits offset => .next (hostRead bits offset s)
  | .engine => engineStep s
  | .reset => .next (resetBlock s)
  | .sampleWrite a v => storeSample a v s

/-- The next move: the oldest waiting one; when none waits, the engine finishes what it has (60_exceptions.md R212), and a
block with no command is quiescent (R201). -/
def nextMove (s : State) : Host.Outcome State Fault Refusal :=
  match s.events with
  | [] => engineStep s
  | e :: rest => takeEvent e (s.setEvents rest)

/-- `s` with the accepted word `w` and the engine's move next. -/
def State.withCommand (s : State) (w : Word) : State := (s.accept w).setEvents (.engine :: s.events)

end Sys2Proof.Machine
end

