-- ==== Sys2Proof/Machine/Step.lean ====
section
/-!
DEFINITION. One step of the machine, and where the host stores the word that the next step runs.
-/

namespace Sys2Proof.Machine

/-- One step: one move of the host, the engine or the platform (00_scope.md R8). -/
def step (s : State) : Host.Outcome State Fault Refusal := nextMove s

/-- `s` once the host has written the word to CMD and the block has accepted it, with the engine's step next. -/
def State.withFetchWord (s : State) (nbits w : Nat) : State := s.withCommand (tableWord nbits w)

end Sys2Proof.Machine
end

