-- ==== Sys2Proof/Safety.lean ====
section
/-!
DEFINITION. What the claims speak of: the invariant of the machine, the readiness of tables and samples under which a
command completes, and the results the spec's formulas give when everything read holds a value.
-/

namespace Sys2Proof.Machine

/-! The invariant -/

/-- What every step keeps: the storages are in canonical form and inside their bounds (20_memory.md R66, 10_state.md R40,
R41), BUSY is 1 exactly while a command is accepted (R25), and with FAULT = 0 the fault record is empty (R25, R34, R35). -/
def State.Inv (s : State) : Prop :=
  Memory.wf s.mem = true ∧
  Cells.wf grainCells s.grain = true ∧
  Cells.wf scalingCells s.scaling = true ∧
  s.status.busy = s.command.isSome ∧
  (s.status.fault = false ↔ s.status.faultCode = FaultCode.none) ∧
  (s.status.fault = false → s.faultInfo = 0 ∧ s.faultAddr = 0)

/-! Kinds of command -/

/-- The commands that CFG.BITDEPTH = 3 makes fault (60_exceptions.md R204). -/
def readsDepth : Instr → Bool
  | .nop | .prngLoad _ | .prngStep _ | .genScalingY | .genScalingU | .genScalingV => false
  | .genGrainY | .genGrainUV420 _ | .genGrainUV422 _ | .genGrainUV444 _ => true
  | .applyY | .applyUV420 _ _ | .applyUV422 _ _ | .applyUV444 _ _ => true

/-- The commands that write grain RAM (10_state.md R40). -/
def writesGrain : Instr → Bool
  | .genGrainY | .genGrainUV420 _ | .genGrainUV422 _ | .genGrainUV444 _ => true
  | .nop | .prngLoad _ | .prngStep _ | .genScalingY | .genScalingU | .genScalingV => false
  | .applyY | .applyUV420 _ _ | .applyUV422 _ _ | .applyUV444 _ _ => false

/-- The commands that write scaling RAM (10_state.md R41). -/
def writesScaling : Instr → Bool
  | .genScalingY | .genScalingU | .genScalingV => true
  | .nop | .prngLoad _ | .prngStep _ => false
  | .genGrainY | .genGrainUV420 _ | .genGrainUV422 _ | .genGrainUV444 _ => false
  | .applyY | .applyUV420 _ _ | .applyUV422 _ _ | .applyUV444 _ _ => false

/-- The commands that write PRNG_STATE (10_state.md R32). -/
def writesPrng : Instr → Bool
  | .prngLoad _ | .prngStep _ => true
  | .genGrainY | .genGrainUV420 _ | .genGrainUV422 _ | .genGrainUV444 _ => true
  | .nop | .genScalingY | .genScalingU | .genScalingV => false
  | .applyY | .applyUV420 _ _ | .applyUV422 _ _ | .applyUV444 _ _ => false

/-! States at the end of a command -/

/-- `s` with the command completed (60_exceptions.md R201), written out field by field. -/
def State.afterCompletion (s : State) : State :=
  { s with status := { busy := false, done := true, fault := s.status.fault, faultCode := s.status.faultCode }, command := none }

/-- `s` with the command ended by a fault (60_exceptions.md R203), written out: the first fault keeps its record. -/
def State.afterFault (s : State) (code : FaultCode) (info addr : Word) : State :=
  { s with
    status := { busy := false, done := s.status.done, fault := true,
                faultCode := if s.status.fault then s.status.faultCode else code }
    faultInfo := if s.status.fault then s.faultInfo else info
    faultAddr := if s.status.fault then s.faultAddr else addr
    command := none }

/-! Readiness -/

/-- The sample at `a`. -/
def State.sampleValue (s : State) (a : Word) : Nat := memRead s.mem a s.frame.cfg.container

/-- The sample at `a` can be read and is in range (20_memory.md R69). -/
def State.sampleGood (s : State) (a : Word) : Bool :=
  memOk s.params a s.frame.cfg.container .read && decide (s.sampleValue a ≤ s.frame.cfg.sampleMax)

/-- The grain cell that lut(c, i, x, y) reads holds a value (43_apply_luma.md R153). -/
def State.lutHeld (s : State) (lay : Layout) (p b c i x y : Nat) : Bool :=
  (grainAt s.grain p (lutRow s lay b c i y) (lutCol s lay b c i x)).isSome

/-- Every grain cell that sample (X, y) reads holds a value (43_apply_luma.md R154). -/
def State.grainHeld (s : State) (lay : Layout) (p X y : Nat) : Bool :=
  let b := X / lay.blockW
  let x := X % lay.blockW
  s.lutHeld lay p b 0 0 x y &&
    (decide (yStart s lay ≤ y) || s.lutHeld lay p b 0 1 x y) &&
    (decide (xStart s lay b ≤ x) || s.lutHeld lay p b 1 0 x y) &&
    (decide (xStart s lay b ≤ x) || decide (yStart s lay ≤ y) || s.lutHeld lay p b 1 1 x y)

/-- Every entry of scaling table `t` that ScaleLookup(t, v) reads holds a value (42_scaling.md R144). -/
def State.lookupHeld (s : State) (t v : Nat) : Bool :=
  let b8 := s.frame.cfg.b8
  let xi := v / 2 ^ b8
  (scalingAt s.scaling t xi).isSome &&
    (decide (s.params.scaleIndexMode = .shift) || decide (b8 = 0) || decide (xi = 255) ||
      (scalingAt s.scaling t (xi + 1)).isSome)

/-- The addresses that sample (X, y) reads, in order: the source sample, then its luma samples (20_memory.md R72,
60_exceptions.md R207). -/
def State.readAddrs (s : State) (lay : Layout) (uv : Bool) (X y : Nat) : List Word :=
  s.srcAddr X y :: (if uv then s.lumaAddrs lay X y else [])

/-- No check of an APPLY command stops it before its first access. -/
def State.bandAdmitted (s : State) (lay : Layout) (uv : Bool) : Bool :=
  !s.frame.cfg.depthIllegal && s.geometryOk lay uv && s.footprintOk lay uv && s.ordinaryMemory lay uv

/-- The table an APPLY_UV command reads (44_apply_chroma.md R175). -/
def State.chromaTable (s : State) (plane : Plane) : Nat := if s.frame.cfg.csfl then 0 else 1 + Plane.index plane

/-- Two positions of the band never share a dst sample address. -/
def State.dstDistinct (s : State) : Prop :=
  ∀ X y X' y', X < s.pw → y < s.bh → X' < s.pw → y' < s.bh → s.dstAddr X y = s.dstAddr X' y' → X = X' ∧ y = y'

/-- (X', y') comes before (X, y) in the canonical order of 60_exceptions.md R207. -/
def earlier (lay : Layout) (X' y' X y : Nat) : Prop :=
  X' / lay.blockW < X / lay.blockW ∨
    (X' / lay.blockW = X / lay.blockW ∧ (y' < y ∨ (y' = y ∧ X' < X)))

/-! Results where everything read holds a value -/

/-- lut(c, i, x, y) in block `b` (43_apply_luma.md R153). -/
def State.lutValue (s : State) (lay : Layout) (p b c i x y : Nat) : Int :=
  (grainAt s.grain p (lutRow s lay b c i y) (lutCol s lay b c i x)).getD 0

/-- G of sample (X, y) (43_apply_luma.md R154). -/
def State.grainResult (s : State) (lay : Layout) (p X y : Nat) : Int :=
  let b := X / lay.blockW
  let x := X % lay.blockW
  let wx := blendWeight s.params.blend lay.sx x
  let wy := blendWeight s.params.blend lay.sy y
  let cur := s.lutValue lay p b 0 0 x y
  let left := s.lutValue lay p b 1 0 x y
  let top := s.lutValue lay p b 0 1 x y
  let topLeft := s.lutValue lay p b 1 1 x y
  if xStart s lay b ≤ x ∧ yStart s lay ≤ y then cur
  else if yStart s lay ≤ y then blend s.frame.cfg left cur wx
  else if xStart s lay b ≤ x then blend s.frame.cfg top cur wy
  else blend s.frame.cfg (blend s.frame.cfg topLeft top wx) (blend s.frame.cfg left cur wx) wy

/-- Scal[t][i], 0 where the entry holds no value. -/
def State.scalValue (s : State) (t i : Nat) : Int := (scalingAt s.scaling t i).getD 0

/-- ScaleLookup(t, v) (42_scaling.md R144). -/
def State.strengthResult (s : State) (t v : Nat) : Int :=
  let b8 := s.frame.cfg.b8
  let xi := v / 2 ^ b8
  match s.params.scaleIndexMode with
  | .shift => s.scalValue t xi
  | .interp =>
    if b8 = 0 ∨ xi = 255 then s.scalValue t xi
    else s.scalValue t xi + round2 ((s.scalValue t (xi + 1) - s.scalValue t xi) * ((v % 2 ^ b8 : Nat) : Int)) b8

/-- The luma output sample (43_apply_luma.md R155, R156). -/
def State.lumaResult (s : State) (X y : Nat) : Int :=
  let v := s.sampleValue (s.srcAddr X y)
  let noise := round2 (s.strengthResult 0 v * s.grainResult Layout.luma 0 X y) (s.frame.shifts.scalingShiftM8.toNat + 8)
  let c := s.frame.cfg
  if c.clipRestricted then clip3 (16 * 2 ^ c.b8) (235 * 2 ^ c.b8) (v + noise) else clip3 0 (2 ^ c.bd - 1) (v + noise)

/-- The co-located luma value (44_apply_chroma.md R172). -/
def State.lumaAverageResult (s : State) (lay : Layout) (X y : Nat) : Nat :=
  let first := s.sampleValue (s.lumaAddr (X * 2 ^ lay.sx) (y * 2 ^ lay.sy))
  if lay.sx = 1 then (first + s.sampleValue (s.lumaAddr (X * 2 ^ lay.sx + 1) (y * 2 ^ lay.sy)) + 1) / 2 else first

/-- The intensity key (44_apply_chroma.md R175). -/
def State.chromaKeyResult (s : State) (lay : Layout) (plane : Plane) (X y : Nat) : Nat :=
  let avg := s.lumaAverageResult lay X y
  let uv := s.frame.uv plane
  if s.frame.cfg.csfl then avg
  else
    (clip3 0 (2 ^ s.frame.cfg.bd - 1)
      (((avg : Int) * uv.lumaMult.toInt + (s.sampleValue (s.srcAddr X y) : Int) * uv.mult.toInt) / 64 +
        uv.offset.toInt * 2 ^ s.frame.cfg.b8)).toNat

/-- The chroma output sample (44_apply_chroma.md R176, R178). -/
def State.chromaResult (s : State) (lay : Layout) (plane : Plane) (isId : Bool) (X y : Nat) : Int :=
  let v := s.sampleValue (s.srcAddr X y)
  let strength := s.strengthResult (s.chromaTable plane) (s.chromaKeyResult lay plane X y)
  let noise := round2 (strength * s.grainResult lay (1 + Plane.index plane) X y) (s.frame.shifts.scalingShiftM8.toNat + 8)
  let c := s.frame.cfg
  if c.clipRestricted then
    clip3 (16 * 2 ^ c.b8) ((if isId then 235 else 240) * 2 ^ c.b8) (v + noise)
  else clip3 0 (2 ^ c.bd - 1) (v + noise)

/-! Grain tables as the rules of 41_grain_tables.md describe them -/

/-- The initial value of cell number `k` of a fill that starts at `seed` (41_grain_tables.md R121). -/
def State.initialGrain (s : State) (seed : BitVec 16) (k : Nat) : Int :=
  round2 (gaussAt s.params ((lfsrAfter (k + 1) seed).toNat / 32))
    (4 + s.frame.shifts.grainScaleShift.toNat - 2 * s.frame.cfg.bitdepth.toNat)

/-- A cell of grain plane `p`, 0 where it holds no value. -/
def State.grainCell (s : State) (p r c : Nat) : Int := (grainAt s.grain p r c).getD 0

/-- Sum over k < n. -/
def sumTo (n : Nat) (f : Nat → Int) : Int := ((List.range n).map f).sum

/-- The neighbour-tap sum of cell (y, x) of plane `p` at lag L (41_grain_tables.md R123, R125): the rows above, L first,
with 2L + 1 coefficients each, then the L cells to the left. -/
def State.neighbourSum (s : State) (p : Nat) (coef : Nat → Int) (lag y x : Nat) : Int :=
  sumTo lag (fun i => sumTo (2 * lag + 1) (fun j => coef (i * (2 * lag + 1) + j) * s.grainCell p (y + i - lag) (x + j - lag))) +
    sumTo lag (fun j => coef (lag * (2 * lag + 1) + j) * s.grainCell p y (x + j - lag))

/-- The luma average of chroma cell (y, x) (41_grain_tables.md R128). -/
def State.lumaGrainAverage (s : State) (lay : Layout) (y x : Nat) : Int :=
  round2
    (sumTo (lay.sy + 1) (fun i => sumTo (lay.sx + 1) (fun j =>
      s.grainCell 0 ((y - 3) * 2 ^ lay.sy + 3 + i) ((x - 3) * 2 ^ lay.sx + 3 + j))))
    (lay.sx + lay.sy)

/-- Every luma cell a GEN_GRAIN_UV command reads lies in rows 3..72 and columns 3..78 (41_grain_tables.md R128): all of
them hold a value. -/
def State.lumaGrainHeld (s : State) : Bool :=
  (List.range 70).all (fun r => (List.range 76).all (fun c => (grainAt s.grain 0 (r + 3) (c + 3)).isSome))

/-! The APPLY commands in one form -/

/-- Layout, whether luma is read, grain plane and scaling table of an APPLY command (43_apply_luma.md R160,
44_apply_chroma.md R170, R175). -/
def applyForm (s : State) : Instr → Option (Layout × Bool × Nat × Nat)
  | .applyY => some (Layout.luma, false, 0, 0)
  | .applyUV420 plane _ => some (Layout.l420, true, 1 + Plane.index plane, s.chromaTable plane)
  | .applyUV422 plane _ => some (Layout.l422, true, 1 + Plane.index plane, s.chromaTable plane)
  | .applyUV444 plane _ => some (Layout.l444, true, 1 + Plane.index plane, s.chromaTable plane)
  | .nop | .prngLoad _ | .prngStep _ | .genScalingY | .genScalingU | .genScalingV => none
  | .genGrainY | .genGrainUV420 _ | .genGrainUV422 _ | .genGrainUV444 _ => none

/-- The value v at which sample (X, y) of an APPLY command looks its strength up (43_apply_luma.md R155,
44_apply_chroma.md R175). -/
def State.lookupKey (s : State) (X y : Nat) : Instr → Nat
  | .applyY => s.sampleValue (s.srcAddr X y)
  | .applyUV420 plane _ => s.chromaKeyResult Layout.l420 plane X y
  | .applyUV422 plane _ => s.chromaKeyResult Layout.l422 plane X y
  | .applyUV444 plane _ => s.chromaKeyResult Layout.l444 plane X y
  | .nop | .prngLoad _ | .prngStep _ | .genScalingY | .genScalingU | .genScalingV => 0
  | .genGrainY | .genGrainUV420 _ | .genGrainUV422 _ | .genGrainUV444 _ => 0

/-- Every sample that sample (X, y) of an APPLY command reads is good. -/
def State.readsGood (s : State) (lay : Layout) (uv : Bool) (X y : Nat) : Bool := (s.readAddrs lay uv X y).all s.sampleGood

/-- Nothing stops APPLY command `i` at sample (X, y): its accesses succeed, and every grain cell and scaling entry it reads
holds a value. -/
def State.positionGood (s : State) (i : Instr) (X y : Nat) : Bool :=
  match applyForm s i with
  | none => false
  | some (lay, uv, p, t) =>
    s.readsGood lay uv X y && s.grainHeld lay p X y && s.lookupHeld t (s.lookupKey X y i) &&
      memOk s.params (s.dstAddr X y) s.frame.cfg.container .write

/-- Nothing stops APPLY command `i`. -/
def State.bandReady (s : State) (i : Instr) : Bool :=
  match applyForm s i with
  | none => false
  | some (lay, uv, _, _) =>
    s.bandAdmitted lay uv && (List.range s.pw).all (fun X => (List.range s.bh).all (fun y => s.positionGood i X y))

/-- The output sample of an APPLY command (43_apply_luma.md R155, 44_apply_chroma.md R176). -/
def State.applyResult (s : State) (X y : Nat) : Instr → Int
  | .applyY => s.lumaResult X y
  | .applyUV420 plane isId => s.chromaResult Layout.l420 plane isId X y
  | .applyUV422 plane isId => s.chromaResult Layout.l422 plane isId X y
  | .applyUV444 plane isId => s.chromaResult Layout.l444 plane isId X y
  | .nop | .prngLoad _ | .prngStep _ | .genScalingY | .genScalingU | .genScalingV => 0
  | .genGrainY | .genGrainUV420 _ | .genGrainUV422 _ | .genGrainUV444 _ => 0

/-- The clip range of an APPLY command's outputs (43_apply_luma.md R156, 44_apply_chroma.md R178). -/
def State.outputRange (s : State) : Instr → Int × Int
  | .applyY =>
    if s.frame.cfg.clipRestricted then (16 * 2 ^ s.frame.cfg.b8, 235 * 2 ^ s.frame.cfg.b8) else (0, 2 ^ s.frame.cfg.bd - 1)
  | .applyUV420 _ isId | .applyUV422 _ isId | .applyUV444 _ isId =>
    if s.frame.cfg.clipRestricted then
      (16 * 2 ^ s.frame.cfg.b8, (if isId then 235 else 240) * 2 ^ s.frame.cfg.b8)
    else (0, 2 ^ s.frame.cfg.bd - 1)
  | .nop | .prngLoad _ | .prngStep _ | .genScalingY | .genScalingU | .genScalingV => (0, 0)
  | .genGrainY | .genGrainUV420 _ | .genGrainUV422 _ | .genGrainUV444 _ => (0, 0)

/-- Layout and plane of a GEN_GRAIN_UV command (41_grain_tables.md R131 to R133). -/
def grainForm : Instr → Option (Layout × Plane)
  | .genGrainUV420 plane => some (Layout.l420, plane)
  | .genGrainUV422 plane => some (Layout.l422, plane)
  | .genGrainUV444 plane => some (Layout.l444, plane)
  | .nop | .prngLoad _ | .prngStep _ | .genScalingY | .genScalingU | .genScalingV | .genGrainY => none
  | .applyY | .applyUV420 _ _ | .applyUV422 _ _ | .applyUV444 _ _ => none

/-- Table, point count, largest legal count and points of a GEN_SCALING command (42_scaling.md R140, R141). -/
def scalingForm (s : State) : Instr → Option (Nat × Nat × Nat × (Nat → Point))
  | .genScalingY => some (0, s.frame.numPoints.numY.toNat, 14, pointOf s.frame.yPoints)
  | .genScalingU => some (1, s.frame.numPoints.numU.toNat, 10, pointOf s.frame.uPoints)
  | .genScalingV => some (2, s.frame.numPoints.numV.toNat, 10, pointOf s.frame.vPoints)
  | .nop | .prngLoad _ | .prngStep _ | .genGrainY => none
  | .genGrainUV420 _ | .genGrainUV422 _ | .genGrainUV444 _ => none
  | .applyY | .applyUV420 _ _ | .applyUV422 _ _ | .applyUV444 _ _ => none

/-- The points of a GEN_SCALING command are legal (42_scaling.md R141). -/
def pointsValid (n nmax : Nat) (pt : Nat → Point) : Bool :=
  decide (2 ≤ n) && decide (n ≤ nmax) && (List.range (n - 1)).all (fun i => decide ((pt i).x < (pt (i + 1)).x))

end Sys2Proof.Machine
end

