-- ==== Sys2Proof/Certificates/Slice0/Obligations.lean ====
section
/-!
DEFINITION. The statements about the block, from the numbered rules of spec/. Each docstring names its rule.
-/

open Sys2Proof Sys2Proof.Machine

/-! Encoding -/

/-- 30_encoding.md R92 to R99: decoding the word, or the bytes, of a well-formed command gives the command back. -/
def Obligations.EncodedCommandsDecodeToThemselves : Prop :=
  ∀ (i : Instr) (rest : List Byte), i.wellFormed = true →
    decode (encode i) = .ok i ∧ decodeBytes (encodeBytes i ++ rest) = .ok (i, rest)

/-- 30_encoding.md R91, R100: a word that decodes is the encoding of what it decodes to, so no bit of it is dropped. -/
def Obligations.DecodedWordsAreTheirEncodings : Prop :=
  ∀ (w : Word) (i : Instr), decode w = .ok i → i.wellFormed = true ∧ encode i = w

/-- 30_encoding.md R98: the table, and no two of its rows match one word. -/
def Obligations.OpcodeMapIsTheSpecsAndDisjoint : Prop :=
  opcodeRows.map (fun r => (r.mnemonic, r.value, r.mask)) =
      [("NOP", 0x00000000, 0xFFFFFFFF), ("PRNG_LOAD", 0x00000001, 0x0000FFFF), ("PRNG_STEP", 0x00000002, 0xFFFFF0FF),
       ("GEN_GRAIN_Y", 0x00000010, 0xFFFFFFFF), ("GEN_GRAIN_UV_420", 0x00000111, 0xFFFFFBFF),
       ("GEN_GRAIN_UV_422", 0x00000211, 0xFFFFFBFF), ("GEN_GRAIN_UV_444", 0x00000311, 0xFFFFFBFF),
       ("GEN_SCALING_Y", 0x00000020, 0xFFFFFFFF), ("GEN_SCALING_U", 0x00000120, 0xFFFFFFFF),
       ("GEN_SCALING_V", 0x00000220, 0xFFFFFFFF), ("APPLY_Y", 0x00000030, 0xFFFFFFFF),
       ("APPLY_UV_420", 0x00000131, 0xFFFFF3FF), ("APPLY_UV_422", 0x00000231, 0xFFFFF3FF),
       ("APPLY_UV_444", 0x00000331, 0xFFFFF3FF)] ∧
  ∀ (w : Word) (r r' : OpcodeRow), r ∈ opcodeRows → r' ∈ opcodeRows →
    w &&& r.mask = r.value → w &&& r'.mask = r'.value → r.mnemonic = r'.mnemonic

/-- 30_encoding.md R99 with the fields of R97: each row's words decode to its command with the fields of the word, and a
word that no row matches is illegal. -/
def Obligations.DecodeFollowsTheOpcodeMap : Prop :=
  ∀ w : Word,
    let plane := if w.getLsbD 10 then Plane.v else Plane.u
    (w = 0x00000000 → decode w = .ok .nop) ∧
    (w &&& 0x0000FFFF = 0x00000001 → decode w = .ok (.prngLoad (w.extractLsb' 16 16))) ∧
    (w &&& 0xFFFFF0FF = 0x00000002 → decode w = .ok (.prngStep ((w.extractLsb' 8 4).toNat + 1))) ∧
    (w = 0x00000010 → decode w = .ok .genGrainY) ∧
    (w &&& 0xFFFFFBFF = 0x00000111 → decode w = .ok (.genGrainUV420 plane)) ∧
    (w &&& 0xFFFFFBFF = 0x00000211 → decode w = .ok (.genGrainUV422 plane)) ∧
    (w &&& 0xFFFFFBFF = 0x00000311 → decode w = .ok (.genGrainUV444 plane)) ∧
    (w = 0x00000020 → decode w = .ok .genScalingY) ∧
    (w = 0x00000120 → decode w = .ok .genScalingU) ∧
    (w = 0x00000220 → decode w = .ok .genScalingV) ∧
    (w = 0x00000030 → decode w = .ok .applyY) ∧
    (w &&& 0xFFFFF3FF = 0x00000131 → decode w = .ok (.applyUV420 plane (w.getLsbD 11))) ∧
    (w &&& 0xFFFFF3FF = 0x00000231 → decode w = .ok (.applyUV422 plane (w.getLsbD 11))) ∧
    (w &&& 0xFFFFF3FF = 0x00000331 → decode w = .ok (.applyUV444 plane (w.getLsbD 11))) ∧
    ((∀ r ∈ opcodeRows, w &&& r.mask ≠ r.value) → ∃ e, decode w = .error e)

/-- 30_encoding.md R100: the words it names as illegal are illegal. -/
def Obligations.ReservedEncodingsAreIllegal : Prop :=
  ∀ w : Word,
    let op := w.toNat % 256
    let sel := w.toNat / 256 % 4
    (op ∉ [0x00, 0x01, 0x02, 0x10, 0x11, 0x20, 0x30, 0x31] ∨
      (op ∈ [0x11, 0x31] ∧ sel = 0) ∨ (op = 0x20 ∧ sel = 3) ∨ (op ∈ [0x00, 0x10, 0x30] ∧ sel ≠ 0) ∨
      (op ∈ [0x00, 0x10, 0x20, 0x30] ∧ w.toNat / 1024 ≠ 0) ∨ (op = 0x01 ∧ w.toNat / 256 % 256 ≠ 0) ∨
      (op = 0x02 ∧ w.toNat / 4096 ≠ 0) ∨ (op = 0x11 ∧ w.toNat / 2048 ≠ 0) ∨ (op = 0x31 ∧ w.toNat / 4096 ≠ 0)) ↔
    ∃ e, decode w = .error e

/-- 30_encoding.md R102 and 95_test_vectors.md section 2.6: some words and what they stand for. -/
def Obligations.WrittenOutWordsDecode : Prop :=
  decode 0x00000000 = .ok .nop ∧ decode 0xACE10001 = .ok (.prngLoad 0xACE1) ∧ decode 0x00000A02 = .ok (.prngStep 11) ∧
  decode 0x00000511 = .ok (.genGrainUV420 .v) ∧ decode 0x00000220 = .ok .genScalingV ∧
  decode 0x00000F31 = .ok (.applyUV444 .v true) ∧ decode 0x00001131 = .error .reservedBits

/-! The life of a command -/

/-- 60_exceptions.md R200: when the engine moves, or no move waits, the step of a block whose accepted word decodes to `i` is
the execution of `i`; the waiting moves lose only the engine's. -/
def Obligations.StepExecutesTheDecodedCommand : Prop :=
  ∀ (s : State) (w : Word) (i : Instr), s.command = some w → decode w = .ok i →
    (s.events = [] → step s = exec i s) ∧
    (∀ rest, s.events = .engine :: rest → step s = exec i { s with events := rest })

/-- 60_exceptions.md R200, R203 and 30_encoding.md R100: the engine's step on an illegal word records ILLEGAL_CMD with the
word, the first fault keeping its record, and changes nothing else. -/
def Obligations.IllegalWordsRaiseIllegalCmd : Prop :=
  ∀ (s : State) (w : Word) (rest : List Event) (e : DecodeError),
    s.events = .engine :: rest → s.command = some w → decode w = .error e →
    step s = .next { (s.afterFault .illegalCmd w 0) with events := rest }

/-- 60_exceptions.md R200: a CMD write is a BUSY_WRITE while BUSY = 1, is dropped while FAULT = 1, and is otherwise accepted,
with DONE unchanged. -/
def Obligations.CmdWriteIssuesDropsOrRefuses : Prop :=
  ∀ (s : State) (w : Word) (rest : List Event), s.events = .write 32 0x008 w :: rest →
    let s0 := { s with events := rest, response := Response.written }
    (s.status.busy = true → s.status.fault = true → step s = .next s0) ∧
    (s.status.busy = true → s.status.fault = false →
      step s = .next { s0 with status := { s.status with fault := true, faultCode := .busyWrite },
                               faultInfo := 0x00000008, faultAddr := 0 }) ∧
    (s.status.busy = false → s.status.fault = true → step s = .next s0) ∧
    (s.status.busy = false → s.status.fault = false →
      step s = .next { s0 with status := { s.status with busy := true }, command := some w })

/-- 60_exceptions.md R201, R203, R212: a command that ends in a next state leaves the engine idle, and has either completed
(DONE set, the fault record untouched) or faulted (FAULT set, DONE untouched). -/
def Obligations.EveryCommandEndsCompletedOrFaulted : Prop :=
  ∀ (i : Instr) (s t : State), exec i s = .next t →
    t.command = none ∧ t.status.busy = false ∧
    ((t.status.done = true ∧ t.status.fault = s.status.fault ∧ t.status.faultCode = s.status.faultCode ∧
        t.faultInfo = s.faultInfo ∧ t.faultAddr = s.faultAddr) ∨
      (t.status.fault = true ∧ t.status.done = s.status.done ∧
        (s.status.fault = true →
          t.status.faultCode = s.status.faultCode ∧ t.faultInfo = s.faultInfo ∧ t.faultAddr = s.faultAddr)))

/-- 10_state.md R20, 45_control.md R192, 43_apply_luma.md R158: no command writes a register that is not its own output, and
grain RAM, scaling RAM, PRNG_STATE, PRNG_OUT and sample memory change only under the commands that write them. -/
def Obligations.CommandsWriteOnlyTheirOutputs : Prop :=
  ∀ (i : Instr) (s t : State), exec i s = .next t →
    t.ctrl = s.ctrl ∧ t.frame = s.frame ∧ t.job = s.job ∧ t.params = s.params ∧ t.events = s.events ∧
    t.response = s.response ∧
    (writesGrain i = false → t.grain = s.grain) ∧
    (writesScaling i = false → t.scaling = s.scaling) ∧
    (writesPrng i = false → t.prngState = s.prngState) ∧
    ((∀ n, i ≠ .prngStep n) → t.prngOut = s.prngOut) ∧
    (applyForm s i = none → t.mem = s.mem)

/-- 60_exceptions.md R204, R203: BITDEPTH = 3 makes every GEN_GRAIN and APPLY command record BAD_PARAM with its word and
change nothing else. -/
def Obligations.IllegalDepthRaisesBadParam : Prop :=
  ∀ (i : Instr) (s : State), readsDepth i = true → s.frame.cfg.bitdepth = 3 →
    exec i s = .next (s.afterFault .badParam (encode i) 0)

/-! NOP and the generator -/

/-- 45_control.md R190: NOP completes without effect, and any other word with opcode 0x00 raises ILLEGAL_CMD. -/
def Obligations.NopCompletesWithoutEffect : Prop :=
  (∀ s : State,
    exec .nop s = .next { s with status := { s.status with busy := false, done := true }, command := none }) ∧
  (∀ w : Word, w.toNat % 256 = 0 → w ≠ 0 →
    ∀ (s : State) (rest : List Event), s.events = .engine :: rest → s.command = some w →
        step s = .next { (s.afterFault .illegalCmd w 0) with events := rest })

/-- 40_prng.md R112: PRNG_LOAD puts IMM16 into PRNG_STATE and changes nothing else but the completion; its words are those
with bits 15:8 zero, and the other words of its opcode raise ILLEGAL_CMD. -/
def Obligations.PrngLoadSetsTheGeneratorState : Prop :=
  (∀ (imm : BitVec 16) (s : State),
    exec (.prngLoad imm) s =
      .next { s with prngState := imm, status := { s.status with busy := false, done := true }, command := none }) ∧
  (∀ w : Word, w.toNat % 256 = 1 →
    (w.toNat / 256 % 256 = 0 → decode w = .ok (.prngLoad (BitVec.ofNat 16 (w.toNat / 65536)))) ∧
    (w.toNat / 256 % 256 ≠ 0 →
      ∀ (s : State) (rest : List Event), s.events = .engine :: rest → s.command = some w →
        step s = .next { (s.afterFault .illegalCmd w 0) with events := rest }))

/-- 40_prng.md R110, R111, R113: PRNG_STEP #n shifts the state right, enters the XOR of bits 0, 1, 3 and 12 at bit 15, puts
the top n bits of the new state into PRNG_OUT, and changes nothing else but the completion; its words are those with bits
31:12 zero, the others of its opcode raise ILLEGAL_CMD. -/
def Obligations.PrngStepDrawsTheTopBits : Prop :=
  (∀ (n : Nat) (s : State), 1 ≤ n → n ≤ 16 →
    ∃ r : BitVec 16,
      r.toNat = s.prngState.toNat / 2 +
        32768 * ((s.prngState.toNat % 2 + s.prngState.toNat / 2 % 2 + s.prngState.toNat / 8 % 2 +
          s.prngState.toNat / 4096 % 2) % 2) ∧
      exec (.prngStep n) s =
        .next { s with prngState := r, prngOut := BitVec.ofNat 16 (r.toNat / 2 ^ (16 - n)),
                       status := { s.status with busy := false, done := true }, command := none }) ∧
  (∀ w : Word, w.toNat % 256 = 2 →
    (w.toNat / 4096 = 0 → decode w = .ok (.prngStep (w.toNat / 256 % 16 + 1))) ∧
    (w.toNat / 4096 ≠ 0 →
      ∀ (s : State) (rest : List Event), s.events = .engine :: rest → s.command = some w →
        step s = .next { (s.afterFault .illegalCmd w 0) with events := rest }))

/-- 40_prng.md R114: 0 is a fixed point and every draw from it is 0, the step is invertible, and the 65535 other states form
one cycle of that length. -/
def Obligations.GeneratorHasFullPeriod : Prop :=
  lfsrStep 0 = 0 ∧
  (∀ n, draw 0 n = (0, 0)) ∧
  (∀ r r' : BitVec 16, lfsrStep r = lfsrStep r' → r = r') ∧
  lfsrAfter 65535 0x0001 = 0x0001 ∧
  (∀ k, 0 < k → k < 65535 → lfsrAfter k 0x0001 ≠ 0x0001) ∧
  (∀ r : BitVec 16, r ≠ 0 → ∃ k, k < 65535 ∧ lfsrAfter k 0x0001 = r)

/-! Grain tables -/

/-- 41_grain_tables.md R124, R126: with a legal depth GEN_GRAIN_Y completes; it fills rows 0..72 and columns 0..81 of plane 0
and no other cell (the guard row and planes 1 and 2 keep what they hold), leaves the state after 5986 draws from SEED in
PRNG_STATE, and changes nothing else but the completion. -/
def Obligations.GenGrainYFillsPlaneZero : Prop :=
  ∀ s : State, s.frame.cfg.bitdepth ≠ 3 →
    ∃ t, exec .genGrainY s = .next t ∧
      t = { s.afterCompletion with grain := t.grain, prngState := lfsrAfter 5986 s.frame.seed } ∧
      (∀ r c, r < 73 → c < 82 → (grainAt t.grain 0 r c).isSome = true) ∧
      (∀ k, 73 * 82 ≤ k → Cells.get t.grain k = Cells.get s.grain k)

/-- 41_grain_tables.md R120, R121, R124: a border cell of the luma grid keeps its initial value, that of draw y·82 + x. -/
def Obligations.LumaBorderCellsKeepTheirDraw : Prop :=
  ∀ s t : State, s.frame.cfg.bitdepth ≠ 3 → exec .genGrainY s = .next t →
    ∀ y x, y < 73 → x < 82 → (y < 3 ∨ x < 3 ∨ 79 ≤ x) →
      grainAt t.grain 0 y x = some (s.initialGrain s.frame.seed (y * 82 + x))

/-- 41_grain_tables.md R123, R125: every cell of the luma AR region is the clamped sum of its initial value and the rounded
weighted sum of its neighbours above and to the left, as the finished table holds them. -/
def Obligations.LumaGrainObeysTheArRecurrence : Prop :=
  ∀ s t : State, s.frame.cfg.bitdepth ≠ 3 → exec .genGrainY s = .next t →
    ∀ y x, 3 ≤ y → y < 73 → 3 ≤ x → x < 79 →
      grainAt t.grain 0 y x =
        some (clip3 (-(128 * 2 ^ s.frame.cfg.b8)) (128 * 2 ^ s.frame.cfg.b8 - 1)
          (s.initialGrain s.frame.seed (y * 82 + x) +
            round2 (t.neighbourSum 0 (coefficient s.frame.arY) s.frame.shifts.arLag.toNat y x)
              (s.frame.shifts.arCoeffShiftM6.toNat + 6)))

/-- 41_grain_tables.md R127, R130 to R133: with a legal depth, and the luma cells it reads holding values unless NUM_Y = 0,
GEN_GRAIN_UV completes; it fills the H x W cells of its layout in plane 1 + p and no other cell, leaves the state after H·W
draws in PRNG_STATE, and changes nothing else but the completion. -/
def Obligations.GenGrainUVFillsItsPlane : Prop :=
  ∀ (i : Instr) (s : State) (lay : Layout) (plane : Plane), grainForm i = some (lay, plane) →
    s.frame.cfg.bitdepth ≠ 3 → (s.frame.numPoints.numY = 0 ∨ s.lumaGrainHeld = true) →
    let w := if lay.sx = 1 then 44 else 82
    let h := if lay.sy = 1 then 38 else 73
    let p := 1 + Plane.index plane
    let seed := s.frame.seed ^^^ (match plane with | .u => 0xB524 | .v => 0x49D8)
    ∃ t, exec i s = .next t ∧
      t = { s.afterCompletion with grain := t.grain, prngState := lfsrAfter (h * w) seed } ∧
      (∀ r c, r < h → c < w → (grainAt t.grain p r c).isSome = true) ∧
      (∀ k, (∀ r c, r < h → c < w → k ≠ (p * 74 + r) * 82 + c) → Cells.get t.grain k = Cells.get s.grain k)

/-- 41_grain_tables.md R127 to R129: a border cell of a chroma grid keeps the initial value of its draw, and a cell of the AR
region is the clamped sum of its initial value and the rounded sum of its weighted neighbours and, unless NUM_Y = 0, its
luma tap with coefficient 2L(L + 1). -/
def Obligations.ChromaGrainObeysTheArRecurrence : Prop :=
  ∀ (i : Instr) (s t : State) (lay : Layout) (plane : Plane), grainForm i = some (lay, plane) →
    s.frame.cfg.bitdepth ≠ 3 → exec i s = .next t →
    let w := if lay.sx = 1 then 44 else 82
    let h := if lay.sy = 1 then 38 else 73
    let p := 1 + Plane.index plane
    let seed := s.frame.seed ^^^ (match plane with | .u => 0xB524 | .v => 0x49D8)
    let coef := coefficient (match plane with | .u => s.frame.arU | .v => s.frame.arV)
    let lag := s.frame.shifts.arLag.toNat
    ∀ y x, y < h → x < w →
      ((y < 3 ∨ x < 3 ∨ w - 3 ≤ x) → grainAt t.grain p y x = some (s.initialGrain seed (y * w + x))) ∧
      (3 ≤ y → 3 ≤ x → x < w - 3 →
        grainAt t.grain p y x =
          some (clip3 (-(128 * 2 ^ s.frame.cfg.b8)) (128 * 2 ^ s.frame.cfg.b8 - 1)
            (s.initialGrain seed (y * w + x) +
              round2
                (t.neighbourSum p coef lag y x +
                  (if s.frame.numPoints.numY = 0 then 0
                    else s.lumaGrainAverage lay y x * coef (2 * lag * (lag + 1))))
                (s.frame.shifts.arCoeffShiftM6.toNat + 6))))

/-- 41_grain_tables.md R128, R130 and 00_scope.md R13: with NUM_Y not 0, a luma cell in rows 3..72 and columns 3..78 that holds
no value makes GEN_GRAIN_UV end in the model fault UNINIT_READ. -/
def Obligations.GenGrainUVNeedsTheLumaTable : Prop :=
  ∀ (i : Instr) (s : State) (lay : Layout) (plane : Plane), grainForm i = some (lay, plane) →
    s.frame.cfg.bitdepth ≠ 3 → s.frame.numPoints.numY ≠ 0 → s.lumaGrainHeld = false →
    exec i s = .fault .uninitRead

/-- 41_grain_tables.md R122, R134: after a completed GEN_GRAIN_Y every AR-region cell lies in [grain_min, grain_max], and every
cell of the grid lies within 2048 >> shift of 0 or in that range. -/
def Obligations.LumaGrainIsBounded : Prop :=
  ∀ s t : State, s.frame.cfg.bitdepth ≠ 3 → exec .genGrainY s = .next t →
    (∀ y x, 3 ≤ y → y < 73 → 3 ≤ x → x < 79 →
      -(128 * 2 ^ s.frame.cfg.b8) ≤ t.grainCell 0 y x ∧ t.grainCell 0 y x ≤ 128 * 2 ^ s.frame.cfg.b8 - 1) ∧
    (∀ y x, y < 73 → x < 82 → (y < 3 ∨ x < 3 ∨ 79 ≤ x) →
      let most : Int := ((2048 / 2 ^ (4 + s.frame.shifts.grainScaleShift.toNat - 2 * s.frame.cfg.bitdepth.toNat) : Nat) : Int)
      0 ≤ most + t.grainCell 0 y x ∧ t.grainCell 0 y x ≤ most)

/-! Scaling tables -/

/-- 42_scaling.md R140, R142, R143: with legal points GEN_SCALING completes; the entries below the first point take its
strength, those of a segment the rounded interpolation, those from the last point on its strength; no other entry and
nothing else but the completion changes. -/
def Obligations.GenScalingBuildsItsTable : Prop :=
  ∀ (i : Instr) (s : State) (tbl n nmax : Nat) (pt : Nat → Point), scalingForm s i = some (tbl, n, nmax, pt) →
    pointsValid n nmax pt = true →
    ∃ t, exec i s = .next t ∧
      t = { s.afterCompletion with scaling := t.scaling } ∧
      (∀ v, v < (pt 0).x → scalingAt t.scaling tbl v = some ((pt 0).y : Int)) ∧
      (∀ k j, k + 1 < n → j < (pt (k + 1)).x - (pt k).x →
        let dx := (pt (k + 1)).x - (pt k).x
        let delta := (((pt (k + 1)).y : Int) - ((pt k).y : Int)) * ((65536 + dx / 2) / dx : Nat)
        scalingAt t.scaling tbl ((pt k).x + j) = some (((pt k).y : Int) + ((j : Int) * delta + 32768) / 65536)) ∧
      (∀ v, (pt (n - 1)).x ≤ v → v < 256 → scalingAt t.scaling tbl v = some ((pt (n - 1)).y : Int)) ∧
      (∀ k, (k < tbl * 256 ∨ tbl * 256 + 256 ≤ k) → Cells.get t.scaling k = Cells.get s.scaling k)

/-- 42_scaling.md R141, 60_exceptions.md R204, R203: a point count out of range or x values that do not rise strictly make
GEN_SCALING record BAD_PARAM with its word and change nothing else. -/
def Obligations.GenScalingRejectsBadPoints : Prop :=
  ∀ (i : Instr) (s : State) (tbl n nmax : Nat) (pt : Nat → Point), scalingForm s i = some (tbl, n, nmax, pt) →
    (n < 2 ∨ nmax < n ∨ ∃ k, k + 1 < n ∧ (pt (k + 1)).x ≤ (pt k).x) →
    exec i s = .next (s.afterFault .badParam (encode i) 0)

/-- 42_scaling.md R142: every entry of a segment lies between the two strengths of the segment. -/
def Obligations.ScalingEntriesLieBetweenTheirStrengths : Prop :=
  ∀ (i : Instr) (s t : State) (tbl n nmax : Nat) (pt : Nat → Point), scalingForm s i = some (tbl, n, nmax, pt) →
    pointsValid n nmax pt = true → exec i s = .next t →
    ∀ k v, k + 1 < n → (pt k).x ≤ v → v < (pt (k + 1)).x →
      ∃ e, scalingAt t.scaling tbl v = some e ∧
        min ((pt k).y : Int) ((pt (k + 1)).y : Int) ≤ e ∧ e ≤ max ((pt k).y : Int) ((pt (k + 1)).y : Int)

/-! Grain overlay -/

/-- 43_apply_luma.md R150 to R156, R160 and 20_memory.md R72: an APPLY_Y that meets nothing that stops it completes; each dst
sample then holds the clipped sum of its source sample and its scaled grain, every byte outside the dst footprint reads
as before, and nothing else but the completion changes. The dst samples are taken at distinct addresses (log 9 says what the
model does where two coincide). -/
def Obligations.ApplyYAddsScaledGrain : Prop :=
  ∀ s : State, s.bandReady .applyY = true →
    ∃ t, exec .applyY s = .next t ∧
      t = { s.afterCompletion with mem := t.mem } ∧
      (∀ a, a ∉ s.dstBytes Layout.luma → byteAt t.mem a = byteAt s.mem a) ∧
      (s.dstDistinct → ∀ X y, X < s.pw → y < s.bh →
        memRead t.mem (s.dstAddr X y) s.frame.cfg.container = (s.lumaResult X y).toNat)

/-- 44_apply_chroma.md R170 to R182 and 20_memory.md R72: the same for the three APPLY_UV commands, with the strength from
the luma average or the blended intensity key. -/
def Obligations.ApplyUVAddsScaledGrain : Prop :=
  ∀ (s : State) (plane : Plane) (isId : Bool), ∀ c ∈
      [(Instr.applyUV420 plane isId, Layout.l420), (Instr.applyUV422 plane isId, Layout.l422),
       (Instr.applyUV444 plane isId, Layout.l444)],
    s.bandReady c.1 = true →
    ∃ t, exec c.1 s = .next t ∧
      t = { s.afterCompletion with mem := t.mem } ∧
      (∀ a, a ∉ s.dstBytes c.2 → byteAt t.mem a = byteAt s.mem a) ∧
      (s.dstDistinct → ∀ X y, X < s.pw → y < s.bh →
        memRead t.mem (s.dstAddr X y) s.frame.cfg.container = (s.chromaResult c.2 plane isId X y).toNat)

/-- 60_exceptions.md R205, R203 and 20_memory.md R68: an APPLY command with WIDTH = 0, HEIGHT outside 1..32 >> sy, or, at 10 or 12
bits, an odd address or stride records BAD_GEOMETRY with its word and changes nothing else; no other job is rejected so: with
FAULT = 0 no next state of its command has BAD_GEOMETRY recorded. -/
def Obligations.BadGeometryIsRejected : Prop :=
  ∀ (i : Instr) (s : State) (lay : Layout) (uv : Bool) (p t : Nat), applyForm s i = some (lay, uv, p, t) →
    s.frame.cfg.bitdepth ≠ 3 →
    let bad := (s.job.width = 0 ∨ s.job.height = 0 ∨ 32 / 2 ^ lay.sy < s.job.height.toNat ∨
      (s.frame.cfg.bitdepth ≠ 0 ∧
        (s.job.srcAddr.toNat % 2 = 1 ∨ s.job.dstAddr.toNat % 2 = 1 ∨ s.job.stride.toNat % 2 = 1 ∨
          (uv = true ∧ (s.job.lumaAddr.toNat % 2 = 1 ∨ s.job.lumaStride.toNat % 2 = 1)))))
    (bad → exec i s = .next (s.afterFault .badGeometry (encode i) 0)) ∧
    (¬ bad → s.status.fault = false → ∀ u, exec i s = .next u →
      ¬ (u.status.fault = true ∧ u.status.faultCode = .badGeometry))

/-- 60_exceptions.md R203, 43_apply_luma.md R158 and 20_memory.md R72: whatever next state an APPLY command ends in, every
register but STATUS and the fault record, both RAMs and every byte outside the dst footprint are unchanged. -/
def Obligations.ApplyLeavesAllButItsDstFootprint : Prop :=
  ∀ (i : Instr) (s u : State) (lay : Layout) (uv : Bool) (p t : Nat), applyForm s i = some (lay, uv, p, t) →
    exec i s = .next u →
    u = { s with status := u.status, faultInfo := u.faultInfo, faultAddr := u.faultAddr, command := none,
                 mem := u.mem, drawn := u.drawn } ∧
    (∀ a, a ∉ s.dstBytes lay → byteAt u.mem a = byteAt s.mem a)

/-- 20_memory.md R69, 60_exceptions.md R202, R203, R207: when the first position in canonical order at which something stops the
command fails at its source read, the command ends there with BUS_ERROR or SAMPLE_RANGE at that address. That a table cell
of this position that holds no value does not come before the source read is the model's reading of the pseudocode of
43_apply_luma.md R155 and 44_apply_chroma.md R176 (log 18). -/
def Obligations.FirstFailingSourceReadIsReported : Prop :=
  ∀ (i : Instr) (s : State) (lay : Layout) (uv : Bool) (p t : Nat), applyForm s i = some (lay, uv, p, t) →
    s.bandAdmitted lay uv = true →
    ∀ X y, X < s.pw → y < s.bh →
      (∀ X' y', X' < s.pw → y' < s.bh → earlier lay X' y' X y → s.positionGood i X' y' = true) →
      (memOk s.params (s.srcAddr X y) s.frame.cfg.container .read = false →
        ∃ u, exec i s = .next u ∧
          u = { (s.afterFault .busError (encode i) (s.srcAddr X y)) with mem := u.mem, drawn := u.drawn }) ∧
      (memOk s.params (s.srcAddr X y) s.frame.cfg.container .read = true →
        s.frame.cfg.sampleMax < memRead s.mem (s.srcAddr X y) s.frame.cfg.container →
        ∃ u, exec i s = .next u ∧
          u = { (s.afterFault .sampleRange (encode i) (s.srcAddr X y)) with mem := u.mem, drawn := u.drawn })

/-- 20_memory.md R69, R70, 44_apply_chroma.md R172, R173, 60_exceptions.md R202, R203, R207: when the first position at which
something stops the command fails at its luma read at lx, then at lx + 1, or, with every table cell it reads held, at its dst
write, the command ends there with BUS_ERROR or SAMPLE_RANGE (a read) or BUS_ERROR (the write) at that address. That a luma
read comes before the table reads of its position is the model's reading of 44_apply_chroma.md R176 (log 18). -/
def Obligations.FailingLumaReadsAndDstWritesAreReported : Prop :=
  ∀ (i : Instr) (s : State) (lay : Layout) (uv : Bool) (p t : Nat), applyForm s i = some (lay, uv, p, t) →
    s.bandAdmitted lay uv = true →
    ∀ X y, X < s.pw → y < s.bh →
      (∀ X' y', X' < s.pw → y' < s.bh → earlier lay X' y' X y → s.positionGood i X' y' = true) →
      let reported (code : FaultCode) (a : Word) : Prop :=
        ∃ u, exec i s = .next u ∧ u = { (s.afterFault code (encode i) a) with mem := u.mem, drawn := u.drawn }
      let readOk (a : Word) : Prop := memOk s.params a s.frame.cfg.container .read = true
      let outOfRange (a : Word) : Prop := s.frame.cfg.sampleMax < memRead s.mem a s.frame.cfg.container
      let src := s.srcAddr X y
      let luma := s.lumaAddr (X * 2 ^ lay.sx) (y * 2 ^ lay.sy)
      let next := s.lumaAddr (X * 2 ^ lay.sx + 1) (y * 2 ^ lay.sy)
      (uv = true → s.sampleGood src = true →
        (¬ readOk luma → reported .busError luma) ∧ (readOk luma → outOfRange luma → reported .sampleRange luma)) ∧
      (uv = true → lay.sx = 1 → s.sampleGood src = true → s.sampleGood luma = true →
        (¬ readOk next → reported .busError next) ∧ (readOk next → outOfRange next → reported .sampleRange next)) ∧
      (s.sampleGood src = true → (uv = true → s.sampleGood luma = true ∧ (lay.sx = 1 → s.sampleGood next = true)) →
        s.grainHeld lay p X y = true → s.lookupHeld t (s.lookupKey X y i) = true →
        memOk s.params (s.dstAddr X y) s.frame.cfg.container .write = false → reported .busError (s.dstAddr X y))

/-- 00_scope.md R12, R13, 43_apply_luma.md R160 and 44_apply_chroma.md section 3: when the first position in canonical order that
does not go through has good samples but reads a grain cell that holds no value, the command ends in the model fault
UNINIT_READ. -/
def Obligations.ApplyNeedsItsGrainTable : Prop :=
  ∀ (i : Instr) (s : State) (lay : Layout) (uv : Bool) (p t : Nat), applyForm s i = some (lay, uv, p, t) →
    s.bandAdmitted lay uv = true →
    ∀ X y, X < s.pw → y < s.bh →
      (∀ X' y', X' < s.pw → y' < s.bh → earlier lay X' y' X y → s.positionGood i X' y' = true) →
      s.readsGood lay uv X y = true → s.grainHeld lay p X y = false →
      exec i s = .fault .uninitRead

/-- 00_scope.md R12, R13, 42_scaling.md R144, 43_apply_luma.md R155, 44_apply_chroma.md R175, R177: when the first position in
canonical order that does not go through has good samples but looks its strength up in a scaling entry that holds no value,
the command ends in the model fault UNINIT_READ: entry v >> b8 of table 0 (APPLY_Y, or CSFL = 1) or 1 + PLANE, and with
SCALE_INDEX_MODE = INTERP the next entry too where the lookup interpolates. -/
def Obligations.ApplyNeedsItsScalingTable : Prop :=
  ∀ (i : Instr) (s : State) (lay : Layout) (uv : Bool) (p t : Nat), applyForm s i = some (lay, uv, p, t) →
    s.bandAdmitted lay uv = true →
    ∀ X y, X < s.pw → y < s.bh →
      (∀ X' y', X' < s.pw → y' < s.bh → earlier lay X' y' X y → s.positionGood i X' y' = true) →
      s.readsGood lay uv X y = true →
      let b8 := s.frame.cfg.b8
      let xi := s.lookupKey X y i / 2 ^ b8
      (scalingAt s.scaling t xi = none ∨
        (s.params.scaleIndexMode = .interp ∧ b8 ≠ 0 ∧ xi ≠ 255 ∧ scalingAt s.scaling t (xi + 1) = none)) →
      exec i s = .fault .uninitRead

/-- 70_reset_and_hazards.md R240, 20_memory.md R73: an APPLY command that passes its checks is refused when a dst byte lies in
the luma footprint or the register window, or in a src footprint that is not the dst footprint, and otherwise when a
side-effecting device stands in a footprint. -/
def Obligations.ForbiddenFootprintsAreRefused : Prop :=
  ∀ (i : Instr) (s : State) (lay : Layout) (uv : Bool) (p t : Nat), applyForm s i = some (lay, uv, p, t) →
    s.frame.cfg.bitdepth ≠ 3 → s.geometryOk lay uv = true →
    let overlap := (∃ a, a ∈ s.dstBytes lay ∧
      (a ∈ s.lumaBytes lay uv ∨ (a - s.params.base).toNat < 0x40000 ∨ (s.job.dstAddr ≠ s.job.srcAddr ∧ a ∈ s.srcBytes lay)))
    let device := (∃ a r, (a ∈ s.srcBytes lay ∨ a ∈ s.dstBytes lay ∨ a ∈ s.lumaBytes lay uv) ∧ r ∈ s.params.devices ∧
      r.first.toNat ≤ a.toNat ∧ a.toNat ≤ r.last.toNat)
    (overlap → exec i s = .refused .footprintOverlap) ∧
    (¬ overlap → device → exec i s = .refused .deviceInFootprint)

/-- 20_memory.md R73, R77, 70_reset_and_hazards.md R240: a store of the host or of another bus master into sample memory sets its
byte and changes nothing else; into a footprint of an accepted APPLY command that passes its checks it is refused. The list
of moves and the reading that the host's own stores are refused there too are the model's (log 1, 11). -/
def Obligations.SampleStoresSetTheirByte : Prop :=
  ∀ (s : State) (a : Word) (v : Byte) (rest : List Event), s.events = .sampleWrite a v :: rest →
    ((∀ lay uv, s.runningApply = some (lay, uv) → a ∉ s.srcBytes lay ∧ a ∉ s.dstBytes lay ∧ a ∉ s.lumaBytes lay uv) →
      ∃ t, step s = .next t ∧ t = { s with events := rest, mem := t.mem } ∧ byteAt t.mem a = some v ∧
        ∀ b, b ≠ a → byteAt t.mem b = byteAt s.mem b) ∧
    (∀ (w : Word) (i : Instr) (lay : Layout) (uv : Bool) (p t : Nat), s.command = some w → decode w = .ok i →
      applyForm s i = some (lay, uv, p, t) → s.frame.cfg.bitdepth ≠ 3 → s.geometryOk lay uv = true →
      (a ∈ s.srcBytes lay ∨ a ∈ s.dstBytes lay ∨ a ∈ s.lumaBytes lay uv) → step s = .refused .footprintWritten) ∧
    ((s.command = none ∨ (∃ w i, s.command = some w ∧ decode w = .ok i ∧ applyForm s i = none)) → s.runningApply = none)

/-- 43_apply_luma.md R159: every grain cell a legal APPLY command reads lies in rows and columns 9..72 of an unsubsampled axis
and 6..37 of a subsampled one, so inside the grid of its layout and never in row 73. -/
def Obligations.GrainCellsReadLieInsideTheGrid : Prop :=
  ∀ (s : State) (lay : Layout), lay ∈ [Layout.luma, Layout.l420, Layout.l422, Layout.l444] →
    ∀ b c i x y, c ≤ 1 → i ≤ 1 → x < 32 / 2 ^ lay.sx → y < 32 / 2 ^ lay.sy →
      (c = 1 → x < 2 / 2 ^ lay.sx) → (i = 1 → y < 2 / 2 ^ lay.sy) →
      (lay.sy = 0 → 9 ≤ lutRow s lay b c i y ∧ lutRow s lay b c i y ≤ 72) ∧
      (lay.sy = 1 → 6 ≤ lutRow s lay b c i y ∧ lutRow s lay b c i y ≤ 37) ∧
      (lay.sx = 0 → 9 ≤ lutCol s lay b c i x ∧ lutCol s lay b c i x ≤ 72) ∧
      (lay.sx = 1 → 6 ≤ lutCol s lay b c i x ∧ lutCol s lay b c i x ≤ 37)

/-- 43_apply_luma.md R156, R160 and 44_apply_chroma.md R178: every output of a completed APPLY command lies in its clip range. -/
def Obligations.OutputsLieInTheClipRange : Prop :=
  ∀ (i : Instr) (s u : State) (lay : Layout) (uv : Bool) (p t : Nat), applyForm s i = some (lay, uv, p, t) →
    s.bandReady i = true → s.dstDistinct → exec i s = .next u →
    ∀ X y, X < s.pw → y < s.bh →
      (s.outputRange i).1 ≤ (memRead u.mem (s.dstAddr X y) s.frame.cfg.container : Int) ∧
        (memRead u.mem (s.dstAddr X y) s.frame.cfg.container : Int) ≤ (s.outputRange i).2

/-- 43_apply_luma.md R161: a sample gets the same value in a band of another width and height with the same registers. -/
def Obligations.EdgeBlocksAreConsistent : Prop :=
  ∀ (i : Instr) (s u u' : State) (lay : Layout) (uv : Bool) (p t : Nat) (width : BitVec 16) (height : BitVec 6),
    applyForm s i = some (lay, uv, p, t) →
    let s' := { s with job := { s.job with width := width, height := height } }
    s.bandReady i = true → s'.bandReady i = true → s.dstDistinct → s'.dstDistinct →
    exec i s = .next u → exec i s' = .next u' →
    ∀ X y, X < s.pw → y < s.bh → X < s'.pw → y < s'.bh →
      memRead u.mem (s.dstAddr X y) s.frame.cfg.container = memRead u'.mem (s.dstAddr X y) s.frame.cfg.container

/-- 43_apply_luma.md R157 (b): working in place gives the samples that separate buffers give. -/
def Obligations.InPlaceEqualsSeparateBuffers : Prop :=
  ∀ (i : Instr) (s u u' : State) (lay : Layout) (uv : Bool) (p t : Nat), applyForm s i = some (lay, uv, p, t) →
    let s' := { s with job := { s.job with dstAddr := s.job.srcAddr } }
    s.bandReady i = true → s'.bandReady i = true → s.dstDistinct → s'.dstDistinct →
    exec i s = .next u → exec i s' = .next u' →
    ∀ X y, X < s.pw → y < s.bh →
      memRead u.mem (s.dstAddr X y) s.frame.cfg.container = memRead u'.mem (s.srcAddr X y) s.frame.cfg.container

/-! The register window -/

/-- 10_state.md R23 to R39 and 20_memory.md R60: while the block is idle, an RW register or bank word reads back the bits of
its fields as written, and 0 in its reserved bits. -/
def Obligations.RegistersReadBackTheirFields : Prop :=
  ∀ (s : State) (v : Word) (rest : List Event), ∀ c ∈
      ([(0x000, 0x00000003), (0x014, 0x00000073), (0x018, 0x0000FFFF), (0x01C, 0x00003333), (0x020, 0x000F0F0F),
        (0x024, 0x01FFFFFF), (0x028, 0x01FFFFFF), (0x02C, 0x0000FFFF), (0x040, 0xFFFFFFFF), (0x044, 0xFFFFFFFF),
        (0x048, 0xFFFFFFFF), (0x04C, 0x0000FFFF), (0x050, 0x0000003F), (0x054, 0x0000FFFF), (0x058, 0xFFFFFFFF),
        (0x05C, 0xFFFFFFFF)] ++
       ([(0x100, 6), (0x120, 8), (0x140, 8), (0x180, 7), (0x1A0, 5), (0x1C0, 5)].flatMap
          (fun b => (List.range b.2).map (fun k => (b.1 + 4 * k, 0xFFFFFFFF)))) : List (Nat × Word)),
    s.status.busy = false →
    s.events = .write 32 (BitVec.ofNat 18 c.1) v :: .read 32 (BitVec.ofNat 18 c.1) :: rest →
    ∃ t u, step s = .next t ∧ step t = .next u ∧ u.response = .data (v &&& c.2)

/-- 10_state.md R27 to R32, R36 to R38 (the packing): what a word written while the block is idle means to the commands, for every
RW register and bank word but CTRL. The list of moves is the model's (log 1). -/
def Obligations.WrittenWordsMeanTheirFields : Prop :=
  ∀ (s : State) (v : Word) (rest : List Event) (o : Nat), s.status.busy = false →
    s.events = .write 32 (BitVec.ofNat 18 o) v :: rest →
    let n := v.toNat
    let means (c : Int) (k : Nat) : Prop := (c - (n / 256 ^ (k % 4) % 256 : Nat)) % 256 = 0 ∧ -128 ≤ c ∧ c ≤ 127
    let point (q : Point) (k : Nat) : Prop := q.x = n / 65536 ^ (k % 2) % 256 ∧ q.y = n / 65536 ^ (k % 2) / 256 % 256
    ∃ t, step s = .next t ∧
      (o = 0x014 → t.frame.cfg.bitdepth.toNat = n % 4 ∧ (t.frame.cfg.overlap = true ↔ n / 16 % 2 = 1) ∧
        (t.frame.cfg.clipRestricted = true ↔ n / 32 % 2 = 1) ∧ (t.frame.cfg.csfl = true ↔ n / 64 % 2 = 1)) ∧
      (o = 0x018 → t.frame.seed.toNat = n % 65536) ∧
      (o = 0x01C → t.frame.shifts.grainScaleShift.toNat = n % 4 ∧ t.frame.shifts.scalingShiftM8.toNat = n / 16 % 4 ∧
        t.frame.shifts.arCoeffShiftM6.toNat = n / 256 % 4 ∧ t.frame.shifts.arLag.toNat = n / 4096 % 4) ∧
      (o = 0x020 → t.frame.numPoints.numY.toNat = n % 16 ∧ t.frame.numPoints.numU.toNat = n / 256 % 16 ∧
        t.frame.numPoints.numV.toNat = n / 65536 % 16) ∧
      (o = 0x024 → t.frame.uvU.mult.toNat = n % 256 ∧ t.frame.uvU.lumaMult.toNat = n / 256 % 256 ∧
        t.frame.uvU.offset.toNat = n / 65536 % 512) ∧
      (o = 0x028 → t.frame.uvV.mult.toNat = n % 256 ∧ t.frame.uvV.lumaMult.toNat = n / 256 % 256 ∧
        t.frame.uvV.offset.toNat = n / 65536 % 512) ∧
      (o = 0x02C → t.prngState.toNat = n % 65536) ∧
      (o = 0x040 → t.job.dstAddr = v) ∧ (o = 0x044 → t.job.srcAddr = v) ∧ (o = 0x048 → t.job.stride = v) ∧
      (o = 0x04C → t.job.width.toNat = n % 65536) ∧ (o = 0x050 → t.job.height.toNat = n % 64) ∧
      (o = 0x054 → t.job.rowNum.toNat = n % 65536) ∧ (o = 0x058 → t.job.lumaAddr = v) ∧
      (o = 0x05C → t.job.lumaStride = v) ∧
      (∀ k, k < 24 → o = 0x100 + 4 * (k / 4) → means (coefficient t.frame.arY k) k) ∧
      (∀ k, k < 32 → o = 0x120 + 4 * (k / 4) → means (coefficient t.frame.arU k) k) ∧
      (∀ k, k < 32 → o = 0x140 + 4 * (k / 4) → means (coefficient t.frame.arV k) k) ∧
      (∀ k, k < 14 → o = 0x180 + 4 * (k / 2) → point (pointOf t.frame.yPoints k) k) ∧
      (∀ k, k < 10 → o = 0x1A0 + 4 * (k / 2) → point (pointOf t.frame.uPoints k) k) ∧
      (∀ k, k < 10 → o = 0x1C0 + 4 * (k / 2) → point (pointOf t.frame.vPoints k) k)

/-- 10_state.md R23, R26, R33 to R35: while the block is idle, PRNG_OUT, FAULT_INFO and FAULT_ADDR read their value and CMD reads 0,
and a write to one of the first three changes nothing. The list of moves and the bus answer are the model's (log 1, 12). -/
def Obligations.ReadOnlyRegistersReadTheirValueAndIgnoreWrites : Prop :=
  ∀ (s : State) (v : Word) (rest : List Event), s.status.busy = false →
    (∀ c ∈ ([(0x030, s.prngOut.setWidth 32), (0x00C, s.faultInfo), (0x010, s.faultAddr), (0x008, 0)] : List (BitVec 18 × Word)),
      s.events = .read 32 c.1 :: rest → step s = .next { s with events := rest, response := .data c.2 }) ∧
    (∀ o ∈ ([0x030, 0x00C, 0x010] : List (BitVec 18)),
      s.events = .write 32 o v :: rest → step s = .next { s with events := rest, response := .written })

/-- 20_memory.md R64, 10_state.md R23: while the block is idle, a write to an aligned offset other than STATUS and CMD leaves what
every other offset holds as it was, and sample memory, the command and the parameters too. The list of moves is the model's
(log 1). -/
def Obligations.RegisterWritesLeaveTheOthersAlone : Prop :=
  ∀ (s : State) (v : Word) (rest : List Event) (o : BitVec 18), s.status.busy = false → o.toNat % 4 = 0 → o ≠ 0x004 →
    o ≠ 0x008 → s.events = .write 32 o v :: rest →
    ∃ t, step s = .next t ∧
      (∀ o' : BitVec 18, o'.toNat % 4 = 0 → o' ≠ o → readSlot t (slotOf o') = readSlot s (slotOf o')) ∧
      t.mem = s.mem ∧ t.command = s.command ∧ t.params = s.params ∧ t.drawn = s.drawn

/-- 10_state.md R40, R41: while the block is idle, a word written to a cell of the GRAIN window reads back its low 16 bits
sign-extended, and one written to the SCALING window its low 8 bits zero-extended. -/
def Obligations.TableWindowsReadBack : Prop :=
  ∀ (s : State) (v : Word) (rest : List Event), s.status.busy = false →
    (∀ p r c, p < 3 → r < 74 → c < 82 →
      let o := BitVec.ofNat 18 (0x10000 + 4 * ((p * 74 + r) * 82 + c))
      s.events = .write 32 o v :: .read 32 o :: rest →
      ∃ t u, step s = .next t ∧ step t = .next u ∧ grainAt t.grain p r c = some (v.setWidth 16).toInt ∧
        u.response = .data ((v.setWidth 16).signExtend 32)) ∧
    (∀ k e, k < 3 → e < 256 →
      let o := BitVec.ofNat 18 (0x30000 + 4 * (k * 256 + e))
      s.events = .write 32 o v :: .read 32 o :: rest →
      ∃ t u, step s = .next t ∧ step t = .next u ∧ scalingAt t.scaling k e = some ((v.toNat % 256 : Nat) : Int) ∧
        u.response = .data (v &&& 0xFF))

/-- 20_memory.md R63: an aligned word access to an offset of the window that R23 does not list reads as 0 and ignores writes. -/
def Obligations.ReservedOffsetsReadZeroAndIgnoreWrites : Prop :=
  ∀ (s : State) (v : Word) (rest : List Event) (o : BitVec 18), o.toNat % 4 = 0 → s.status.busy = false →
    (0x034 ≤ o.toNat ∧ o.toNat < 0x040 ∨ 0x060 ≤ o.toNat ∧ o.toNat < 0x100 ∨ 0x118 ≤ o.toNat ∧ o.toNat < 0x120 ∨
      0x160 ≤ o.toNat ∧ o.toNat < 0x180 ∨ 0x19C ≤ o.toNat ∧ o.toNat < 0x1A0 ∨ 0x1B4 ≤ o.toNat ∧ o.toNat < 0x1C0 ∨
      0x1D4 ≤ o.toNat ∧ o.toNat < 0x10000 ∨ 0x21C70 ≤ o.toNat ∧ o.toNat < 0x30000 ∨ 0x30C00 ≤ o.toNat) →
    (s.events = .read 32 o :: rest → step s = .next { s with events := rest, response := .data 0 }) ∧
    (s.events = .write 32 o v :: rest → step s = .next { s with events := rest, response := .written })

/-- 20_memory.md R61: an access of another width or alignment gets the bus-error response, changes no state of the block and
raises no block fault. -/
def Obligations.MalformedHostAccessesGetABusError : Prop :=
  ∀ (s : State) (bits : Nat) (o : BitVec 18) (v : Word) (rest : List Event), (bits ≠ 32 ∨ o.toNat % 4 ≠ 0) →
    (s.events = .write bits o v :: rest ∨ s.events = .read bits o :: rest) →
    step s = .next { s with events := rest, response := .busError }

/-- 20_memory.md R64: a host read has no side effect on the block; only the waiting moves, the bus answer and the model's
counter of free values change. -/
def Obligations.HostReadsHaveNoSideEffect : Prop :=
  ∀ (s : State) (bits : Nat) (o : BitVec 18) (rest : List Event), s.events = .read bits o :: rest →
    ∃ t, step s = .next t ∧ t = { s with events := rest, response := t.response, drawn := t.drawn }

/-- 20_memory.md R65: while BUSY = 1, CTRL, STATUS, FAULT_INFO and FAULT_ADDR read their current value, and any other aligned word
reads some word. -/
def Obligations.BusyReadsReturnStatusRegisters : Prop :=
  ∀ (s : State) (o : BitVec 18) (rest : List Event), s.status.busy = true → o.toNat % 4 = 0 → s.events = .read 32 o :: rest →
    (o = 0x000 → step s = .next { s with events := rest, response := .data s.ctrl.word }) ∧
    (o = 0x004 → step s = .next { s with events := rest, response := .data s.status.word }) ∧
    (o = 0x00C → step s = .next { s with events := rest, response := .data s.faultInfo }) ∧
    (o = 0x010 → step s = .next { s with events := rest, response := .data s.faultAddr }) ∧
    (∃ v t, step s = .next t ∧ t.response = .data v)

/-- 60_exceptions.md R206, R203: while BUSY = 1 a host write to any offset but CTRL and STATUS is dropped and records BUSY_WRITE
with the offset's low 16 bits, the first fault keeping its record; the running command goes on, and a host read raises
nothing. -/
def Obligations.BusyWritesAreDroppedAndReported : Prop :=
  ∀ (s : State) (o : BitVec 18) (v : Word) (rest : List Event), s.status.busy = true → o.toNat % 4 = 0 →
    (o ≠ 0x000 → o ≠ 0x004 → s.events = .write 32 o v :: rest →
      step s = .next
        { s with
          events := rest, response := .written,
          status := { busy := true, done := s.status.done, fault := true,
                      faultCode := if s.status.fault then s.status.faultCode else .busyWrite },
          faultInfo := if s.status.fault then s.faultInfo else BitVec.ofNat 32 (o.toNat % 65536),
          faultAddr := if s.status.fault then s.faultAddr else 0 }) ∧
    (s.events = .read 32 o :: rest →
      ∃ t, step s = .next t ∧ t.status = s.status ∧ t.faultInfo = s.faultInfo ∧ t.faultAddr = s.faultAddr ∧
        t.command = s.command)

/-- 20_memory.md R77, R82: while a command is accepted, no move but the engine's step and reset changes a parameter register, a
job register, the generator, a RAM or the command. -/
def Obligations.CommandsSeeTheStateAtTheirIssue : Prop :=
  ∀ (s t : State) (e : Event) (rest : List Event), s.status.busy = true → s.events = e :: rest → e ≠ .engine → e ≠ .reset →
    step s = .next t →
    t.frame = s.frame ∧ t.job = s.job ∧ t.prngState = s.prngState ∧ t.prngOut = s.prngOut ∧ t.grain = s.grain ∧
    t.scaling = s.scaling ∧ t.command = s.command ∧ t.status.busy = true ∧ t.params = s.params

/-- 10_state.md R25, 60_exceptions.md R209: a write to STATUS clears DONE by bit 1 and by bit 2 FAULT with its whole record, in
any state, and changes nothing else. -/
def Obligations.StatusWritesClearWhatTheyName : Prop :=
  ∀ (s : State) (v : Word) (rest : List Event), s.events = .write 32 0x004 v :: rest →
    step s = .next
      { s with
        events := rest, response := .written,
        status := { busy := s.status.busy,
                    done := if v.toNat / 2 % 2 = 1 then false else s.status.done,
                    fault := if v.toNat / 4 % 2 = 1 then false else s.status.fault,
                    faultCode := if v.toNat / 4 % 2 = 1 then .none else s.status.faultCode },
        faultInfo := if v.toNat / 4 % 2 = 1 then 0 else s.faultInfo,
        faultAddr := if v.toNat / 4 % 2 = 1 then 0 else s.faultAddr }

/-- 60_exceptions.md R202, 10_state.md R25: STATUS reads its bits at their places, FAULT_CODE as the number of its code. -/
def Obligations.StatusReadsItsBits : Prop :=
  ∀ (s : State) (rest : List Event), s.events = .read 32 0x004 :: rest →
    let code : Nat := (match s.status.faultCode with
      | .none => 0 | .illegalCmd => 1 | .badParam => 2 | .badGeometry => 3 | .sampleRange => 4 | .busError => 5 | .busyWrite => 6)
    ∃ v, step s = .next { s with events := rest, response := .data v } ∧
      v.toNat = (if s.status.busy then 1 else 0) + (if s.status.done then 2 else 0) + (if s.status.fault then 4 else 0) + 256 * code

/-- 60_exceptions.md R210: after a completed NOP the interrupt line is IRQ_EN_DONE or the pending enabled fault, and the W1C of
both bits lowers it. -/
def Obligations.InterruptLineFollowsStatusAndEnables : Prop :=
  ∀ s : State,
    (∀ t, exec .nop s = .next t → (t.irq = true ↔ s.ctrl.irqEnDone = true ∨ (s.status.fault = true ∧ s.ctrl.irqEnFault = true))) ∧
    (∀ v rest t, s.events = .write 32 0x004 v :: rest → v.toNat / 2 % 2 = 1 → v.toNat / 4 % 2 = 1 → step s = .next t →
      t.irq = false) ∧
    (∀ v rest t, s.events = .write 32 0x000 v :: rest → step s = .next t →
      (t.irq = true ↔ (s.status.done = true ∧ v.toNat % 2 = 1) ∨ (s.status.fault = true ∧ v.toNat / 2 % 2 = 1)))

/-! Reset and the invariant -/

/-- 70_reset_and_hazards.md R230, R231: reset gives every register its reset value and empties both RAMs in any state; sample
memory is untouched but for the dst footprint of an APPLY command in progress. -/
def Obligations.ResetClearsTheBlock : Prop :=
  ∀ (s : State) (rest : List Event), s.events = .reset :: rest →
    ∃ t, step s = .next t ∧
      t = { State.reset with mem := t.mem, events := rest, drawn := t.drawn, params := s.params } ∧
      (s.runningApply = none → t.mem = s.mem) ∧
      (∀ lay uv, s.runningApply = some (lay, uv) → ∀ a, a ∉ s.dstBytes lay → byteAt t.mem a = byteAt s.mem a)

/-- 10_state.md R44, 70_reset_and_hazards.md R231: the reset values. -/
def Obligations.ResetValuesAreZero : Prop :=
  State.reset.status.word = 0 ∧ State.reset.ctrl.word = 0 ∧ State.reset.faultInfo = 0 ∧ State.reset.faultAddr = 0 ∧
  State.reset.frame.cfg.word = 0 ∧ State.reset.frame.seed = 0 ∧ State.reset.frame.shifts.word = 0 ∧
  State.reset.frame.numPoints.word = 0 ∧ State.reset.frame.uvU.word = 0 ∧ State.reset.frame.uvV.word = 0 ∧
  State.reset.prngState = 0 ∧ State.reset.prngOut = 0 ∧ State.reset.job.width = 0 ∧ State.reset.job.height = 0 ∧
  State.reset.job.dstAddr = 0 ∧ State.reset.job.srcAddr = 0 ∧ State.reset.job.stride = 0 ∧ State.reset.job.rowNum = 0 ∧
  State.reset.job.lumaAddr = 0 ∧ State.reset.job.lumaStride = 0 ∧
  (∀ k, coefficient State.reset.frame.arY k = 0 ∧ coefficient State.reset.frame.arU k = 0 ∧
    coefficient State.reset.frame.arV k = 0) ∧
  (∀ k, pointOf State.reset.frame.yPoints k = ⟨0, 0⟩ ∧ pointOf State.reset.frame.uPoints k = ⟨0, 0⟩ ∧
    pointOf State.reset.frame.vPoints k = ⟨0, 0⟩) ∧
  (∀ p r c, grainAt State.reset.grain p r c = none) ∧ (∀ t e, scalingAt State.reset.scaling t e = none) ∧
  State.reset.irq = false

/-- 60_exceptions.md R201, R220: with no move waiting and no command accepted the block is quiescent. -/
def Obligations.IdleBlockIsQuiescent : Prop :=
  ∀ s : State, s.events = [] → s.command = none → step s = .next s

/-- The invariant of `State.Inv` holds at reset (10_state.md R44). -/
def Obligations.InvariantHoldsAtReset : Prop := State.reset.Inv

/-- 10_state.md R25, R34, R35, R40, R41, 20_memory.md R66: every step keeps the canonical form and the bounds of the storages,
BUSY = 1 exactly while a command is accepted, and the empty fault record while FAULT = 0. -/
def Obligations.EveryStepKeepsTheInvariant : Prop :=
  ∀ s t : State, s.Inv → step s = .next t → t.Inv

/-- A step never changes the platform's parameters (00_scope.md R6, R7). -/
def Obligations.ParametersAreConstant : Prop :=
  ∀ s t : State, step s = .next t → t.params = s.params
end

