-- ==== Sys2Proof/Laws/Cells.lean ====
section
/-!
SUPPORT. The laws of the sparse storages and of sample memory: what a store leaves readable, and that every store keeps the
canonical form.
-/

namespace Sys2Proof.Machine

variable {n : Nat}

@[simp] theorem Cells.get_nil (k : Nat) : Cells.get ([] : Cells n) k = none := rfl

theorem Cells.get_cons (c : Nat × BitVec n) (m : Cells n) (k : Nat) :
    Cells.get (c :: m) k = if c.1 = k then some c.2 else Cells.get m k := rfl

theorem Cells.get_append (m m' : Cells n) (k : Nat) :
    Cells.get (m ++ m') k = (Cells.get m k).or (Cells.get m' k) := by
  induction m with
  | nil => simp
  | cons c m ih => by_cases h : c.1 = k <;> simp [Cells.get_cons, h, ih]

theorem Cells.get_eq_none {m : Cells n} {k : Nat} (h : ∀ c ∈ m, c.1 ≠ k) : Cells.get m k = none := by
  induction m with
  | nil => rfl
  | cons c m ih =>
    rw [Cells.get_cons, if_neg (h c (by simp)), ih (fun c' hc' => h c' (by simp [hc']))]

theorem Cells.mem_of_get {m : Cells n} {k : Nat} {v : BitVec n} (h : Cells.get m k = some v) : (k, v) ∈ m := by
  induction m with
  | nil => simp at h
  | cons c m ih =>
    rw [Cells.get_cons] at h
    by_cases hc : c.1 = k
    · rw [if_pos hc] at h
      obtain ⟨a, w⟩ := c
      simp_all
    · rw [if_neg hc] at h
      exact List.mem_cons_of_mem _ (ih h)

theorem Cells.lt_of_mem_below {m : Cells n} {k : Nat} {c : Nat × BitVec n} (h : c ∈ Cells.below m k) : c.1 < k := by
  have := List.mem_takeWhile_imp h
  simpa using this

theorem Cells.get_below_self (m : Cells n) (k : Nat) : Cells.get (Cells.below m k) k = none :=
  Cells.get_eq_none (fun _ hc => Nat.ne_of_lt (Cells.lt_of_mem_below hc))

/-- Away from `k`, the two parts hold what the whole holds. -/
theorem Cells.get_parts (m : Cells n) {k j : Nat} (h : j ≠ k) :
    (Cells.get (Cells.below m k) j).or (Cells.get (Cells.above m k) j) = Cells.get m j := by
  have hm : m = Cells.below m k ++ m.dropWhile (fun c => c.1 < k) := by
    simp [Cells.below, List.takeWhile_append_dropWhile]
  conv => rhs; rw [hm]
  rw [Cells.get_append]
  congr 1
  unfold Cells.above
  split
  · next h' => rw [h']
  · next c rest h' =>
    rw [h', Cells.get_cons]
    by_cases hc : c.1 = k
    · rw [if_pos hc, if_neg (by omega)]
    · rw [if_neg hc, Cells.get_cons]

theorem Cells.get_set (m : Cells n) (k j : Nat) (v : BitVec n) :
    Cells.get (Cells.set m k v) j = if j = k then some v else Cells.get m j := by
  unfold Cells.set
  rw [Cells.get_append, Cells.get_cons]
  by_cases h : j = k
  · subst h; simp [Cells.get_below_self]
  · rw [if_neg (fun hk => h hk.symm), if_neg h, Cells.get_parts m h]

/-- Keys rise strictly. -/
def Cells.Rising (m : Cells n) : Prop := m.Pairwise (fun c d => c.1 < d.1)

theorem Cells.wf_iff {bound : Nat} {m : Cells n} :
    Cells.wf bound m = true ↔ Cells.Rising m ∧ ∀ c ∈ m, c.1 < bound := by
  induction m with
  | nil => simp [Cells.wf, Cells.Rising]
  | cons c m ih =>
    obtain ⟨k, v⟩ := c
    simp only [Cells.wf, Bool.and_eq_true, decide_eq_true_eq, List.all_eq_true, ih, Cells.Rising,
      List.pairwise_cons, List.mem_cons, forall_eq_or_imp]
    tauto

/-- Of a rising storage, a listed cell reads its value. -/
theorem Cells.get_of_mem {m : Cells n} (hm : Cells.Rising m) {k : Nat} {v : BitVec n} (h : (k, v) ∈ m) :
    Cells.get m k = some v := by
  induction m with
  | nil => simp at h
  | cons c m ih =>
    obtain ⟨h1, h2⟩ := List.pairwise_cons.mp hm
    rw [Cells.get_cons]
    rcases List.mem_cons.mp h with rfl | h
    · simp
    · rw [if_neg (by have := h1 _ h; simp at this; omega)]
      exact ih h2 h

/-- Storing a rising list of cells over a storage: a stored cell reads as stored, every other as before. -/
theorem Cells.get_overlay {new : Cells n} (h : Cells.Rising new) (old : Cells n) (j : Nat) :
    Cells.get (Cells.overlay new old) j = (Cells.get new j).or (Cells.get old j) := by
  induction new generalizing old with
  | nil => simp [Cells.overlay]
  | cons c rest ih =>
    obtain ⟨k, v⟩ := c
    obtain ⟨hk, hrest⟩ := List.pairwise_cons.mp h
    show Cells.get (Cells.below old k ++ (k, v) :: Cells.overlay rest (Cells.above old k)) j = _
    rw [Cells.get_append, Cells.get_cons, Cells.get_cons, ih hrest]
    by_cases hj : j = k
    · subst hj; simp [Cells.get_below_self]
    · rw [if_neg (fun hk' => hj hk'.symm), if_neg (fun hk' => hj hk'.symm)]
      rcases hg : Cells.get rest j with _ | w
      · simpa using Cells.get_parts old hj
      · have hlt := hk _ (Cells.mem_of_get hg)
        have hnone : Cells.get (Cells.below old k) j = none :=
          Cells.get_eq_none (fun c hc => by have := Cells.lt_of_mem_below hc; simp at hlt; omega)
        simp [hnone]

theorem Cells.mem_above {m : Cells n} {k : Nat} {c : Nat × BitVec n} (h : c ∈ Cells.above m k) :
    c ∈ m ∧ c ∈ m.dropWhile (fun c => c.1 < k) := by
  have hsub : c ∈ m.dropWhile (fun c => c.1 < k) := by
    unfold Cells.above at h
    split at h
    · simp at h
    · next d rest hd =>
      rw [hd]
      split at h
      · exact List.mem_cons_of_mem _ h
      · exact h
  exact ⟨(List.dropWhile_sublist _).subset hsub, hsub⟩

/-- Of a rising storage, the part above `k` lies above `k`. -/
theorem Cells.above_spec {m : Cells n} (h : Cells.Rising m) (k : Nat) :
    Cells.Rising (Cells.above m k) ∧ ∀ c ∈ Cells.above m k, k < c.1 := by
  have hd : (m.dropWhile (fun c => c.1 < k)).Pairwise (fun c d => c.1 < d.1) := h.sublist (List.dropWhile_sublist _)
  unfold Cells.above
  split
  · simp [Cells.Rising]
  · next c rest hc =>
    have hnot : ¬ c.1 < k := by
      have := List.head?_dropWhile_not (fun c : Nat × BitVec n => decide (c.1 < k)) m
      rw [hc] at this
      simpa using this
    rw [hc] at hd
    obtain ⟨h1, h2⟩ := List.pairwise_cons.mp hd
    by_cases hk : c.1 = k
    · rw [if_pos hk]
      exact ⟨h2, fun d hd' => by have := h1 d hd'; omega⟩
    · rw [if_neg hk]
      refine ⟨hd, fun d hd' => ?_⟩
      rcases List.mem_cons.mp hd' with rfl | hd''
      · omega
      · have := h1 d hd''; omega

theorem Cells.mem_overlay {new old : Cells n} {c : Nat × BitVec n} (h : c ∈ Cells.overlay new old) :
    c ∈ new ∨ c ∈ old := by
  induction new generalizing old with
  | nil => exact Or.inr h
  | cons d rest ih =>
    obtain ⟨k, v⟩ := d
    rcases List.mem_append.mp (show c ∈ Cells.below old k ++ (k, v) :: Cells.overlay rest (Cells.above old k) from h) with h | h
    · exact Or.inr ((List.takeWhile_sublist _).subset h)
    · rcases List.mem_cons.mp h with rfl | h
      · exact Or.inl (by simp)
      · rcases ih h with h | h
        · exact Or.inl (List.mem_cons_of_mem _ h)
        · exact Or.inr (Cells.mem_above h).1

theorem Cells.rising_overlay {new old : Cells n} (hn : Cells.Rising new) (ho : Cells.Rising old) :
    Cells.Rising (Cells.overlay new old) := by
  induction new generalizing old with
  | nil => exact ho
  | cons d rest ih =>
    obtain ⟨k, v⟩ := d
    obtain ⟨hk, hrest⟩ := List.pairwise_cons.mp hn
    have habove := Cells.above_spec ho k
    show (Cells.below old k ++ (k, v) :: Cells.overlay rest (Cells.above old k)).Pairwise _
    have hgt : ∀ c ∈ Cells.overlay rest (Cells.above old k), k < c.1 := fun c hc =>
      (Cells.mem_overlay hc).elim (hk c) (habove.2 c)
    refine List.pairwise_append.mpr ⟨ho.sublist (List.takeWhile_sublist _), ?_, ?_⟩
    · exact List.pairwise_cons.mpr ⟨hgt, ih hrest habove.1⟩
    · intro c hc d hd
      have hlt := Cells.lt_of_mem_below hc
      rcases List.mem_cons.mp hd with rfl | hd
      · exact hlt
      · exact Nat.lt_trans hlt (hgt d hd)

/-- Every store of rising cells keeps the canonical form. -/
theorem Cells.wf_overlay {bound : Nat} {new old : Cells n} (hn : Cells.wf bound new = true) (ho : Cells.wf bound old = true) :
    Cells.wf bound (Cells.overlay new old) = true := by
  rw [Cells.wf_iff] at *
  exact ⟨Cells.rising_overlay hn.1 ho.1, fun c hc => (Cells.mem_overlay hc).elim (hn.2 c) (ho.2 c)⟩

theorem Cells.set_eq_overlay (m : Cells n) (k : Nat) (v : BitVec n) : Cells.set m k v = Cells.overlay [(k, v)] m := rfl

/-- A store below the bound keeps the canonical form. -/
theorem Cells.wf_set {bound k : Nat} {m : Cells n} (v : BitVec n) (hk : k < bound) (hm : Cells.wf bound m = true) :
    Cells.wf bound (Cells.set m k v) = true := by
  rw [Cells.set_eq_overlay]
  exact Cells.wf_overlay (by simp [Cells.wf, hk]) hm

theorem Cells.wf_setAll {bound : Nat} {writes : List (Nat × BitVec n)} (hw : ∀ c ∈ writes, c.1 < bound) {m : Cells n}
    (hm : Cells.wf bound m = true) : Cells.wf bound (Cells.setAll writes m) = true := by
  induction writes generalizing m with
  | nil => exact hm
  | cons c rest ih => exact ih (fun d hd => hw d (by simp [hd])) (Cells.wf_set c.2 (hw c (by simp)) hm)

theorem Cells.get_setAll_of_not_mem {writes : List (Nat × BitVec n)} {k : Nat} (hk : ∀ c ∈ writes, c.1 ≠ k) (m : Cells n) :
    Cells.get (Cells.setAll writes m) k = Cells.get m k := by
  induction writes generalizing m with
  | nil => rfl
  | cons c rest ih =>
    show Cells.get (Cells.setAll rest (Cells.set m c.1 c.2)) k = _
    rw [ih (fun d hd => hk d (by simp [hd])), Cells.get_set, if_neg (fun h => hk c (by simp) h.symm)]

/-! Sample memory -/

theorem byteAt_setByte (m : Memory) (a b : Word) (v : Byte) :
    byteAt (setByte m a v) b = if b = a then some v else byteAt m b := by
  simp only [byteAt, setByte, Cells.get_set, BitVec.toNat_inj]

theorem mem_byteAddrs {a b : Word} {k : Nat} : b ∈ byteAddrs a k ↔ ∃ i < k, b = a + BitVec.ofNat 32 i := by
  induction k generalizing a with
  | zero => simp [byteAddrs]
  | succ k ih =>
    simp only [byteAddrs, List.mem_cons, ih]
    constructor
    · rintro (rfl | ⟨i, hi, rfl⟩)
      · exact ⟨0, by omega, by simp⟩
      · exact ⟨i + 1, by omega, by rw [BitVec.add_assoc, BitVec.add_comm 1#32 _, BitVec.ofNat_add]⟩
    · rintro ⟨i, hi, rfl⟩
      cases i with
      | zero => exact Or.inl (by simp)
      | succ i => exact Or.inr ⟨i, by omega, by rw [BitVec.add_assoc, BitVec.add_comm 1#32 _, BitVec.ofNat_add]⟩

/-- A write leaves every byte outside its own alone. -/
theorem byteAt_memWrite_of_not_mem {k : Nat} {a b : Word} (h : b ∉ byteAddrs a k) (m : Memory) (v : Nat) :
    byteAt (memWrite m a k v) b = byteAt m b := by
  induction k generalizing m a v with
  | zero => rfl
  | succ k ih =>
    simp only [byteAddrs, List.mem_cons, not_or] at h
    rw [memWrite, ih h.2, byteAt_setByte, if_neg h.1]

theorem heldByte_of_byteAt {m : Memory} {a : Word} {v : Byte} (h : byteAt m a = some v) : heldByte m a = v := by
  simp [heldByte, h]

theorem heldByte_congr {m m' : Memory} {a : Word} (h : byteAt m a = byteAt m' a) : heldByte m a = heldByte m' a := by
  simp [heldByte, h]

/-- A read of addresses that hold the same bytes gives the same value. -/
theorem memRead_congr {k : Nat} {a : Word} {m m' : Memory} (h : ∀ b ∈ byteAddrs a k, byteAt m b = byteAt m' b) :
    memRead m a k = memRead m' a k := by
  induction k generalizing a with
  | zero => rfl
  | succ k ih =>
    rw [memRead, memRead, heldByte_congr (h a (by simp [byteAddrs])), ih (fun b hb => h b (List.mem_cons_of_mem _ hb))]

/-- A sample container that does not meet itself reads back the value written. -/
theorem memRead_memWrite {k : Nat} (hk : k ≤ 2) (m : Memory) (a : Word) (v : Nat) :
    memRead (memWrite m a k v) a k = v % 256 ^ k := by
  match k, hk with
  | 0, _ => simp [memRead, Nat.mod_one]
  | 1, _ => simp [memRead, memWrite, heldByte, byteAt_setByte]
  | 2, _ =>
    have h : a ≠ a + 1#32 := by
      intro h
      have := congrArg (fun w : Word => (w - a).toNat) h
      simp at this
    have h0 : byteAt (memWrite m a 2 v) a = some (BitVec.ofNat 8 v) := by
      rw [memWrite, memWrite, memWrite, byteAt_setByte, if_neg h, byteAt_setByte, if_pos rfl]
    have h1 : byteAt (memWrite m a 2 v) (a + 1#32) = some (BitVec.ofNat 8 (v / 256)) := by
      rw [memWrite, memWrite, memWrite, byteAt_setByte, if_pos rfl]
    simp only [memRead, heldByte_of_byteAt h0, heldByte_of_byteAt h1, BitVec.toNat_ofNat]
    omega

/-- A one-byte read is at most 255, so it is in range at 8 bits (20_memory.md R69). -/
theorem memRead_lt (m : Memory) (a : Word) (k : Nat) : memRead m a k < 256 ^ k := by
  induction k generalizing a with
  | zero => simp [memRead]
  | succ k ih =>
    have h1 := (heldByte m a).isLt
    have h2 := ih (a + 1#32)
    simp only [memRead, Nat.pow_succ]
    omega

theorem Memory.wf_setByte {m : Memory} (h : Memory.wf m = true) (a : Word) (v : Byte) : Memory.wf (setByte m a v) = true :=
  Cells.wf_set v a.isLt h

theorem Memory.wf_memWrite {m : Memory} (h : Memory.wf m = true) (a : Word) (k v : Nat) :
    Memory.wf (memWrite m a k v) = true := by
  induction k generalizing m a v with
  | zero => exact h
  | succ k ih => exact ih (Memory.wf_setByte h a _) _ _

theorem Memory.wf_unspecify {s : State} (h : Memory.wf s.mem = true) (addrs : List Word) :
    Memory.wf (s.unspecify addrs).mem = true :=
  Cells.wf_setAll (by simp only [List.mem_map]; rintro c ⟨a, _, rfl⟩; exact a.isLt) h

theorem byteAt_unspecify_of_not_mem {s : State} {addrs : List Word} {a : Word} (h : a ∉ addrs) :
    byteAt (s.unspecify addrs).mem a = byteAt s.mem a :=
  Cells.get_setAll_of_not_mem
    (by
      simp only [List.mem_map]
      rintro c ⟨b, hb, rfl⟩ hab
      exact h (BitVec.eq_of_toNat_eq hab ▸ hb)) s.mem

end Sys2Proof.Machine
end

