-- ==== Sys2Proof/Laws/State.lean ====
section
/-!
SUPPORT. One lemma per field per update of the state, so that no later proof unfolds a record update. The proofs are `(rfl)`,
so that simp rewrites with them instead of leaving the kernel to compare two whole states, grids and all.
-/

namespace Sys2Proof.Machine

/-! setPrng -/

@[simp] theorem State.setPrng_ctrl (s : State) (r : BitVec 16) : (s.setPrng r).ctrl = s.ctrl := (rfl)
@[simp] theorem State.setPrng_status (s : State) (r : BitVec 16) : (s.setPrng r).status = s.status := (rfl)
@[simp] theorem State.setPrng_faultInfo (s : State) (r : BitVec 16) : (s.setPrng r).faultInfo = s.faultInfo := (rfl)
@[simp] theorem State.setPrng_faultAddr (s : State) (r : BitVec 16) : (s.setPrng r).faultAddr = s.faultAddr := (rfl)
@[simp] theorem State.setPrng_frame (s : State) (r : BitVec 16) : (s.setPrng r).frame = s.frame := (rfl)
@[simp] theorem State.setPrng_job (s : State) (r : BitVec 16) : (s.setPrng r).job = s.job := (rfl)
@[simp] theorem State.setPrng_prngState (s : State) (r : BitVec 16) : (s.setPrng r).prngState = r := (rfl)
@[simp] theorem State.setPrng_prngOut (s : State) (r : BitVec 16) : (s.setPrng r).prngOut = s.prngOut := (rfl)
@[simp] theorem State.setPrng_grain (s : State) (r : BitVec 16) : (s.setPrng r).grain = s.grain := (rfl)
@[simp] theorem State.setPrng_scaling (s : State) (r : BitVec 16) : (s.setPrng r).scaling = s.scaling := (rfl)
@[simp] theorem State.setPrng_mem (s : State) (r : BitVec 16) : (s.setPrng r).mem = s.mem := (rfl)
@[simp] theorem State.setPrng_command (s : State) (r : BitVec 16) : (s.setPrng r).command = s.command := (rfl)
@[simp] theorem State.setPrng_events (s : State) (r : BitVec 16) : (s.setPrng r).events = s.events := (rfl)
@[simp] theorem State.setPrng_response (s : State) (r : BitVec 16) : (s.setPrng r).response = s.response := (rfl)
@[simp] theorem State.setPrng_drawn (s : State) (r : BitVec 16) : (s.setPrng r).drawn = s.drawn := (rfl)
@[simp] theorem State.setPrng_params (s : State) (r : BitVec 16) : (s.setPrng r).params = s.params := (rfl)

/-! setPrngOut -/

@[simp] theorem State.setPrngOut_ctrl (s : State) (v : BitVec 16) : (s.setPrngOut v).ctrl = s.ctrl := (rfl)
@[simp] theorem State.setPrngOut_status (s : State) (v : BitVec 16) : (s.setPrngOut v).status = s.status := (rfl)
@[simp] theorem State.setPrngOut_faultInfo (s : State) (v : BitVec 16) : (s.setPrngOut v).faultInfo = s.faultInfo := (rfl)
@[simp] theorem State.setPrngOut_faultAddr (s : State) (v : BitVec 16) : (s.setPrngOut v).faultAddr = s.faultAddr := (rfl)
@[simp] theorem State.setPrngOut_frame (s : State) (v : BitVec 16) : (s.setPrngOut v).frame = s.frame := (rfl)
@[simp] theorem State.setPrngOut_job (s : State) (v : BitVec 16) : (s.setPrngOut v).job = s.job := (rfl)
@[simp] theorem State.setPrngOut_prngState (s : State) (v : BitVec 16) : (s.setPrngOut v).prngState = s.prngState := (rfl)
@[simp] theorem State.setPrngOut_prngOut (s : State) (v : BitVec 16) : (s.setPrngOut v).prngOut = v := (rfl)
@[simp] theorem State.setPrngOut_grain (s : State) (v : BitVec 16) : (s.setPrngOut v).grain = s.grain := (rfl)
@[simp] theorem State.setPrngOut_scaling (s : State) (v : BitVec 16) : (s.setPrngOut v).scaling = s.scaling := (rfl)
@[simp] theorem State.setPrngOut_mem (s : State) (v : BitVec 16) : (s.setPrngOut v).mem = s.mem := (rfl)
@[simp] theorem State.setPrngOut_command (s : State) (v : BitVec 16) : (s.setPrngOut v).command = s.command := (rfl)
@[simp] theorem State.setPrngOut_events (s : State) (v : BitVec 16) : (s.setPrngOut v).events = s.events := (rfl)
@[simp] theorem State.setPrngOut_response (s : State) (v : BitVec 16) : (s.setPrngOut v).response = s.response := (rfl)
@[simp] theorem State.setPrngOut_drawn (s : State) (v : BitVec 16) : (s.setPrngOut v).drawn = s.drawn := (rfl)
@[simp] theorem State.setPrngOut_params (s : State) (v : BitVec 16) : (s.setPrngOut v).params = s.params := (rfl)

/-! setGrain -/

@[simp] theorem State.setGrain_ctrl (s : State) (g : Cells 16) : (s.setGrain g).ctrl = s.ctrl := (rfl)
@[simp] theorem State.setGrain_status (s : State) (g : Cells 16) : (s.setGrain g).status = s.status := (rfl)
@[simp] theorem State.setGrain_faultInfo (s : State) (g : Cells 16) : (s.setGrain g).faultInfo = s.faultInfo := (rfl)
@[simp] theorem State.setGrain_faultAddr (s : State) (g : Cells 16) : (s.setGrain g).faultAddr = s.faultAddr := (rfl)
@[simp] theorem State.setGrain_frame (s : State) (g : Cells 16) : (s.setGrain g).frame = s.frame := (rfl)
@[simp] theorem State.setGrain_job (s : State) (g : Cells 16) : (s.setGrain g).job = s.job := (rfl)
@[simp] theorem State.setGrain_prngState (s : State) (g : Cells 16) : (s.setGrain g).prngState = s.prngState := (rfl)
@[simp] theorem State.setGrain_prngOut (s : State) (g : Cells 16) : (s.setGrain g).prngOut = s.prngOut := (rfl)
@[simp] theorem State.setGrain_grain (s : State) (g : Cells 16) : (s.setGrain g).grain = g := (rfl)
@[simp] theorem State.setGrain_scaling (s : State) (g : Cells 16) : (s.setGrain g).scaling = s.scaling := (rfl)
@[simp] theorem State.setGrain_mem (s : State) (g : Cells 16) : (s.setGrain g).mem = s.mem := (rfl)
@[simp] theorem State.setGrain_command (s : State) (g : Cells 16) : (s.setGrain g).command = s.command := (rfl)
@[simp] theorem State.setGrain_events (s : State) (g : Cells 16) : (s.setGrain g).events = s.events := (rfl)
@[simp] theorem State.setGrain_response (s : State) (g : Cells 16) : (s.setGrain g).response = s.response := (rfl)
@[simp] theorem State.setGrain_drawn (s : State) (g : Cells 16) : (s.setGrain g).drawn = s.drawn := (rfl)
@[simp] theorem State.setGrain_params (s : State) (g : Cells 16) : (s.setGrain g).params = s.params := (rfl)

/-! setScaling -/

@[simp] theorem State.setScaling_ctrl (s : State) (t : Cells 8) : (s.setScaling t).ctrl = s.ctrl := (rfl)
@[simp] theorem State.setScaling_status (s : State) (t : Cells 8) : (s.setScaling t).status = s.status := (rfl)
@[simp] theorem State.setScaling_faultInfo (s : State) (t : Cells 8) : (s.setScaling t).faultInfo = s.faultInfo := (rfl)
@[simp] theorem State.setScaling_faultAddr (s : State) (t : Cells 8) : (s.setScaling t).faultAddr = s.faultAddr := (rfl)
@[simp] theorem State.setScaling_frame (s : State) (t : Cells 8) : (s.setScaling t).frame = s.frame := (rfl)
@[simp] theorem State.setScaling_job (s : State) (t : Cells 8) : (s.setScaling t).job = s.job := (rfl)
@[simp] theorem State.setScaling_prngState (s : State) (t : Cells 8) : (s.setScaling t).prngState = s.prngState := (rfl)
@[simp] theorem State.setScaling_prngOut (s : State) (t : Cells 8) : (s.setScaling t).prngOut = s.prngOut := (rfl)
@[simp] theorem State.setScaling_grain (s : State) (t : Cells 8) : (s.setScaling t).grain = s.grain := (rfl)
@[simp] theorem State.setScaling_scaling (s : State) (t : Cells 8) : (s.setScaling t).scaling = t := (rfl)
@[simp] theorem State.setScaling_mem (s : State) (t : Cells 8) : (s.setScaling t).mem = s.mem := (rfl)
@[simp] theorem State.setScaling_command (s : State) (t : Cells 8) : (s.setScaling t).command = s.command := (rfl)
@[simp] theorem State.setScaling_events (s : State) (t : Cells 8) : (s.setScaling t).events = s.events := (rfl)
@[simp] theorem State.setScaling_response (s : State) (t : Cells 8) : (s.setScaling t).response = s.response := (rfl)
@[simp] theorem State.setScaling_drawn (s : State) (t : Cells 8) : (s.setScaling t).drawn = s.drawn := (rfl)
@[simp] theorem State.setScaling_params (s : State) (t : Cells 8) : (s.setScaling t).params = s.params := (rfl)

/-! setMem -/

@[simp] theorem State.setMem_ctrl (s : State) (m : Memory) : (s.setMem m).ctrl = s.ctrl := (rfl)
@[simp] theorem State.setMem_status (s : State) (m : Memory) : (s.setMem m).status = s.status := (rfl)
@[simp] theorem State.setMem_faultInfo (s : State) (m : Memory) : (s.setMem m).faultInfo = s.faultInfo := (rfl)
@[simp] theorem State.setMem_faultAddr (s : State) (m : Memory) : (s.setMem m).faultAddr = s.faultAddr := (rfl)
@[simp] theorem State.setMem_frame (s : State) (m : Memory) : (s.setMem m).frame = s.frame := (rfl)
@[simp] theorem State.setMem_job (s : State) (m : Memory) : (s.setMem m).job = s.job := (rfl)
@[simp] theorem State.setMem_prngState (s : State) (m : Memory) : (s.setMem m).prngState = s.prngState := (rfl)
@[simp] theorem State.setMem_prngOut (s : State) (m : Memory) : (s.setMem m).prngOut = s.prngOut := (rfl)
@[simp] theorem State.setMem_grain (s : State) (m : Memory) : (s.setMem m).grain = s.grain := (rfl)
@[simp] theorem State.setMem_scaling (s : State) (m : Memory) : (s.setMem m).scaling = s.scaling := (rfl)
@[simp] theorem State.setMem_mem (s : State) (m : Memory) : (s.setMem m).mem = m := (rfl)
@[simp] theorem State.setMem_command (s : State) (m : Memory) : (s.setMem m).command = s.command := (rfl)
@[simp] theorem State.setMem_events (s : State) (m : Memory) : (s.setMem m).events = s.events := (rfl)
@[simp] theorem State.setMem_response (s : State) (m : Memory) : (s.setMem m).response = s.response := (rfl)
@[simp] theorem State.setMem_drawn (s : State) (m : Memory) : (s.setMem m).drawn = s.drawn := (rfl)
@[simp] theorem State.setMem_params (s : State) (m : Memory) : (s.setMem m).params = s.params := (rfl)

/-! setEvents -/

@[simp] theorem State.setEvents_ctrl (s : State) (es : List Event) : (s.setEvents es).ctrl = s.ctrl := (rfl)
@[simp] theorem State.setEvents_status (s : State) (es : List Event) : (s.setEvents es).status = s.status := (rfl)
@[simp] theorem State.setEvents_faultInfo (s : State) (es : List Event) : (s.setEvents es).faultInfo = s.faultInfo := (rfl)
@[simp] theorem State.setEvents_faultAddr (s : State) (es : List Event) : (s.setEvents es).faultAddr = s.faultAddr := (rfl)
@[simp] theorem State.setEvents_frame (s : State) (es : List Event) : (s.setEvents es).frame = s.frame := (rfl)
@[simp] theorem State.setEvents_job (s : State) (es : List Event) : (s.setEvents es).job = s.job := (rfl)
@[simp] theorem State.setEvents_prngState (s : State) (es : List Event) : (s.setEvents es).prngState = s.prngState := (rfl)
@[simp] theorem State.setEvents_prngOut (s : State) (es : List Event) : (s.setEvents es).prngOut = s.prngOut := (rfl)
@[simp] theorem State.setEvents_grain (s : State) (es : List Event) : (s.setEvents es).grain = s.grain := (rfl)
@[simp] theorem State.setEvents_scaling (s : State) (es : List Event) : (s.setEvents es).scaling = s.scaling := (rfl)
@[simp] theorem State.setEvents_mem (s : State) (es : List Event) : (s.setEvents es).mem = s.mem := (rfl)
@[simp] theorem State.setEvents_command (s : State) (es : List Event) : (s.setEvents es).command = s.command := (rfl)
@[simp] theorem State.setEvents_events (s : State) (es : List Event) : (s.setEvents es).events = es := (rfl)
@[simp] theorem State.setEvents_response (s : State) (es : List Event) : (s.setEvents es).response = s.response := (rfl)
@[simp] theorem State.setEvents_drawn (s : State) (es : List Event) : (s.setEvents es).drawn = s.drawn := (rfl)
@[simp] theorem State.setEvents_params (s : State) (es : List Event) : (s.setEvents es).params = s.params := (rfl)

/-! respond -/

@[simp] theorem State.respond_ctrl (s : State) (r : Response) : (s.respond r).ctrl = s.ctrl := (rfl)
@[simp] theorem State.respond_status (s : State) (r : Response) : (s.respond r).status = s.status := (rfl)
@[simp] theorem State.respond_faultInfo (s : State) (r : Response) : (s.respond r).faultInfo = s.faultInfo := (rfl)
@[simp] theorem State.respond_faultAddr (s : State) (r : Response) : (s.respond r).faultAddr = s.faultAddr := (rfl)
@[simp] theorem State.respond_frame (s : State) (r : Response) : (s.respond r).frame = s.frame := (rfl)
@[simp] theorem State.respond_job (s : State) (r : Response) : (s.respond r).job = s.job := (rfl)
@[simp] theorem State.respond_prngState (s : State) (r : Response) : (s.respond r).prngState = s.prngState := (rfl)
@[simp] theorem State.respond_prngOut (s : State) (r : Response) : (s.respond r).prngOut = s.prngOut := (rfl)
@[simp] theorem State.respond_grain (s : State) (r : Response) : (s.respond r).grain = s.grain := (rfl)
@[simp] theorem State.respond_scaling (s : State) (r : Response) : (s.respond r).scaling = s.scaling := (rfl)
@[simp] theorem State.respond_mem (s : State) (r : Response) : (s.respond r).mem = s.mem := (rfl)
@[simp] theorem State.respond_command (s : State) (r : Response) : (s.respond r).command = s.command := (rfl)
@[simp] theorem State.respond_events (s : State) (r : Response) : (s.respond r).events = s.events := (rfl)
@[simp] theorem State.respond_response (s : State) (r : Response) : (s.respond r).response = r := (rfl)
@[simp] theorem State.respond_drawn (s : State) (r : Response) : (s.respond r).drawn = s.drawn := (rfl)
@[simp] theorem State.respond_params (s : State) (r : Response) : (s.respond r).params = s.params := (rfl)

/-! takeFree -/

@[simp] theorem State.takeFree_ctrl (s : State) : s.takeFree.ctrl = s.ctrl := (rfl)
@[simp] theorem State.takeFree_status (s : State) : s.takeFree.status = s.status := (rfl)
@[simp] theorem State.takeFree_faultInfo (s : State) : s.takeFree.faultInfo = s.faultInfo := (rfl)
@[simp] theorem State.takeFree_faultAddr (s : State) : s.takeFree.faultAddr = s.faultAddr := (rfl)
@[simp] theorem State.takeFree_frame (s : State) : s.takeFree.frame = s.frame := (rfl)
@[simp] theorem State.takeFree_job (s : State) : s.takeFree.job = s.job := (rfl)
@[simp] theorem State.takeFree_prngState (s : State) : s.takeFree.prngState = s.prngState := (rfl)
@[simp] theorem State.takeFree_prngOut (s : State) : s.takeFree.prngOut = s.prngOut := (rfl)
@[simp] theorem State.takeFree_grain (s : State) : s.takeFree.grain = s.grain := (rfl)
@[simp] theorem State.takeFree_scaling (s : State) : s.takeFree.scaling = s.scaling := (rfl)
@[simp] theorem State.takeFree_mem (s : State) : s.takeFree.mem = s.mem := (rfl)
@[simp] theorem State.takeFree_command (s : State) : s.takeFree.command = s.command := (rfl)
@[simp] theorem State.takeFree_events (s : State) : s.takeFree.events = s.events := (rfl)
@[simp] theorem State.takeFree_response (s : State) : s.takeFree.response = s.response := (rfl)
@[simp] theorem State.takeFree_drawn (s : State) : s.takeFree.drawn = s.drawn + 1 := (rfl)
@[simp] theorem State.takeFree_params (s : State) : s.takeFree.params = s.params := (rfl)

/-! accept -/

@[simp] theorem State.accept_ctrl (s : State) (w : Word) : (s.accept w).ctrl = s.ctrl := (rfl)
@[simp] theorem State.accept_status (s : State) (w : Word) : (s.accept w).status = { s.status with busy := true } := (rfl)
@[simp] theorem State.accept_faultInfo (s : State) (w : Word) : (s.accept w).faultInfo = s.faultInfo := (rfl)
@[simp] theorem State.accept_faultAddr (s : State) (w : Word) : (s.accept w).faultAddr = s.faultAddr := (rfl)
@[simp] theorem State.accept_frame (s : State) (w : Word) : (s.accept w).frame = s.frame := (rfl)
@[simp] theorem State.accept_job (s : State) (w : Word) : (s.accept w).job = s.job := (rfl)
@[simp] theorem State.accept_prngState (s : State) (w : Word) : (s.accept w).prngState = s.prngState := (rfl)
@[simp] theorem State.accept_prngOut (s : State) (w : Word) : (s.accept w).prngOut = s.prngOut := (rfl)
@[simp] theorem State.accept_grain (s : State) (w : Word) : (s.accept w).grain = s.grain := (rfl)
@[simp] theorem State.accept_scaling (s : State) (w : Word) : (s.accept w).scaling = s.scaling := (rfl)
@[simp] theorem State.accept_mem (s : State) (w : Word) : (s.accept w).mem = s.mem := (rfl)
@[simp] theorem State.accept_command (s : State) (w : Word) : (s.accept w).command = some w := (rfl)
@[simp] theorem State.accept_events (s : State) (w : Word) : (s.accept w).events = s.events := (rfl)
@[simp] theorem State.accept_response (s : State) (w : Word) : (s.accept w).response = s.response := (rfl)
@[simp] theorem State.accept_drawn (s : State) (w : Word) : (s.accept w).drawn = s.drawn := (rfl)
@[simp] theorem State.accept_params (s : State) (w : Word) : (s.accept w).params = s.params := (rfl)

/-! complete -/

@[simp] theorem State.complete_ctrl (s : State) : s.complete.ctrl = s.ctrl := (rfl)
@[simp] theorem State.complete_status (s : State) : s.complete.status = { s.status with busy := false, done := true } := (rfl)
@[simp] theorem State.complete_faultInfo (s : State) : s.complete.faultInfo = s.faultInfo := (rfl)
@[simp] theorem State.complete_faultAddr (s : State) : s.complete.faultAddr = s.faultAddr := (rfl)
@[simp] theorem State.complete_frame (s : State) : s.complete.frame = s.frame := (rfl)
@[simp] theorem State.complete_job (s : State) : s.complete.job = s.job := (rfl)
@[simp] theorem State.complete_prngState (s : State) : s.complete.prngState = s.prngState := (rfl)
@[simp] theorem State.complete_prngOut (s : State) : s.complete.prngOut = s.prngOut := (rfl)
@[simp] theorem State.complete_grain (s : State) : s.complete.grain = s.grain := (rfl)
@[simp] theorem State.complete_scaling (s : State) : s.complete.scaling = s.scaling := (rfl)
@[simp] theorem State.complete_mem (s : State) : s.complete.mem = s.mem := (rfl)
@[simp] theorem State.complete_command (s : State) : s.complete.command = none := (rfl)
@[simp] theorem State.complete_events (s : State) : s.complete.events = s.events := (rfl)
@[simp] theorem State.complete_response (s : State) : s.complete.response = s.response := (rfl)
@[simp] theorem State.complete_drawn (s : State) : s.complete.drawn = s.drawn := (rfl)
@[simp] theorem State.complete_params (s : State) : s.complete.params = s.params := (rfl)

/-! abandon -/

@[simp] theorem State.abandon_ctrl (s : State) : s.abandon.ctrl = s.ctrl := (rfl)
@[simp] theorem State.abandon_status (s : State) : s.abandon.status = { s.status with busy := false } := (rfl)
@[simp] theorem State.abandon_faultInfo (s : State) : s.abandon.faultInfo = s.faultInfo := (rfl)
@[simp] theorem State.abandon_faultAddr (s : State) : s.abandon.faultAddr = s.faultAddr := (rfl)
@[simp] theorem State.abandon_frame (s : State) : s.abandon.frame = s.frame := (rfl)
@[simp] theorem State.abandon_job (s : State) : s.abandon.job = s.job := (rfl)
@[simp] theorem State.abandon_prngState (s : State) : s.abandon.prngState = s.prngState := (rfl)
@[simp] theorem State.abandon_prngOut (s : State) : s.abandon.prngOut = s.prngOut := (rfl)
@[simp] theorem State.abandon_grain (s : State) : s.abandon.grain = s.grain := (rfl)
@[simp] theorem State.abandon_scaling (s : State) : s.abandon.scaling = s.scaling := (rfl)
@[simp] theorem State.abandon_mem (s : State) : s.abandon.mem = s.mem := (rfl)
@[simp] theorem State.abandon_command (s : State) : s.abandon.command = none := (rfl)
@[simp] theorem State.abandon_events (s : State) : s.abandon.events = s.events := (rfl)
@[simp] theorem State.abandon_response (s : State) : s.abandon.response = s.response := (rfl)
@[simp] theorem State.abandon_drawn (s : State) : s.abandon.drawn = s.drawn := (rfl)
@[simp] theorem State.abandon_params (s : State) : s.abandon.params = s.params := (rfl)

/-! clearFault -/

@[simp] theorem State.clearFault_ctrl (s : State) : s.clearFault.ctrl = s.ctrl := (rfl)
@[simp] theorem State.clearFault_status (s : State) : s.clearFault.status = { s.status with fault := false, faultCode := .none } := (rfl)
@[simp] theorem State.clearFault_faultInfo (s : State) : s.clearFault.faultInfo = 0 := (rfl)
@[simp] theorem State.clearFault_faultAddr (s : State) : s.clearFault.faultAddr = 0 := (rfl)
@[simp] theorem State.clearFault_frame (s : State) : s.clearFault.frame = s.frame := (rfl)
@[simp] theorem State.clearFault_job (s : State) : s.clearFault.job = s.job := (rfl)
@[simp] theorem State.clearFault_prngState (s : State) : s.clearFault.prngState = s.prngState := (rfl)
@[simp] theorem State.clearFault_prngOut (s : State) : s.clearFault.prngOut = s.prngOut := (rfl)
@[simp] theorem State.clearFault_grain (s : State) : s.clearFault.grain = s.grain := (rfl)
@[simp] theorem State.clearFault_scaling (s : State) : s.clearFault.scaling = s.scaling := (rfl)
@[simp] theorem State.clearFault_mem (s : State) : s.clearFault.mem = s.mem := (rfl)
@[simp] theorem State.clearFault_command (s : State) : s.clearFault.command = s.command := (rfl)
@[simp] theorem State.clearFault_events (s : State) : s.clearFault.events = s.events := (rfl)
@[simp] theorem State.clearFault_response (s : State) : s.clearFault.response = s.response := (rfl)
@[simp] theorem State.clearFault_drawn (s : State) : s.clearFault.drawn = s.drawn := (rfl)
@[simp] theorem State.clearFault_params (s : State) : s.clearFault.params = s.params := (rfl)

/-! clearDone -/

@[simp] theorem State.clearDone_ctrl (s : State) : s.clearDone.ctrl = s.ctrl := (rfl)
@[simp] theorem State.clearDone_status (s : State) : s.clearDone.status = { s.status with done := false } := (rfl)
@[simp] theorem State.clearDone_faultInfo (s : State) : s.clearDone.faultInfo = s.faultInfo := (rfl)
@[simp] theorem State.clearDone_faultAddr (s : State) : s.clearDone.faultAddr = s.faultAddr := (rfl)
@[simp] theorem State.clearDone_frame (s : State) : s.clearDone.frame = s.frame := (rfl)
@[simp] theorem State.clearDone_job (s : State) : s.clearDone.job = s.job := (rfl)
@[simp] theorem State.clearDone_prngState (s : State) : s.clearDone.prngState = s.prngState := (rfl)
@[simp] theorem State.clearDone_prngOut (s : State) : s.clearDone.prngOut = s.prngOut := (rfl)
@[simp] theorem State.clearDone_grain (s : State) : s.clearDone.grain = s.grain := (rfl)
@[simp] theorem State.clearDone_scaling (s : State) : s.clearDone.scaling = s.scaling := (rfl)
@[simp] theorem State.clearDone_mem (s : State) : s.clearDone.mem = s.mem := (rfl)
@[simp] theorem State.clearDone_command (s : State) : s.clearDone.command = s.command := (rfl)
@[simp] theorem State.clearDone_events (s : State) : s.clearDone.events = s.events := (rfl)
@[simp] theorem State.clearDone_response (s : State) : s.clearDone.response = s.response := (rfl)
@[simp] theorem State.clearDone_drawn (s : State) : s.clearDone.drawn = s.drawn := (rfl)
@[simp] theorem State.clearDone_params (s : State) : s.clearDone.params = s.params := (rfl)

/-! unspecify -/

@[simp] theorem State.unspecify_ctrl (s : State) (l : List Word) : (s.unspecify l).ctrl = s.ctrl := (rfl)
@[simp] theorem State.unspecify_status (s : State) (l : List Word) : (s.unspecify l).status = s.status := (rfl)
@[simp] theorem State.unspecify_faultInfo (s : State) (l : List Word) : (s.unspecify l).faultInfo = s.faultInfo := (rfl)
@[simp] theorem State.unspecify_faultAddr (s : State) (l : List Word) : (s.unspecify l).faultAddr = s.faultAddr := (rfl)
@[simp] theorem State.unspecify_frame (s : State) (l : List Word) : (s.unspecify l).frame = s.frame := (rfl)
@[simp] theorem State.unspecify_job (s : State) (l : List Word) : (s.unspecify l).job = s.job := (rfl)
@[simp] theorem State.unspecify_prngState (s : State) (l : List Word) : (s.unspecify l).prngState = s.prngState := (rfl)
@[simp] theorem State.unspecify_prngOut (s : State) (l : List Word) : (s.unspecify l).prngOut = s.prngOut := (rfl)
@[simp] theorem State.unspecify_grain (s : State) (l : List Word) : (s.unspecify l).grain = s.grain := (rfl)
@[simp] theorem State.unspecify_scaling (s : State) (l : List Word) : (s.unspecify l).scaling = s.scaling := (rfl)
@[simp] theorem State.unspecify_command (s : State) (l : List Word) : (s.unspecify l).command = s.command := (rfl)
@[simp] theorem State.unspecify_events (s : State) (l : List Word) : (s.unspecify l).events = s.events := (rfl)
@[simp] theorem State.unspecify_response (s : State) (l : List Word) : (s.unspecify l).response = s.response := (rfl)
@[simp] theorem State.unspecify_drawn (s : State) (l : List Word) : (s.unspecify l).drawn = s.drawn + 1 := (rfl)
@[simp] theorem State.unspecify_params (s : State) (l : List Word) : (s.unspecify l).params = s.params := (rfl)

/-! storeGrid -/

@[simp] theorem State.storeGrid_ctrl (s : State) (p : Nat) (g : Grid × BitVec 16) : (s.storeGrid p g).ctrl = s.ctrl := (rfl)
@[simp] theorem State.storeGrid_status (s : State) (p : Nat) (g : Grid × BitVec 16) : (s.storeGrid p g).status = s.status := (rfl)
@[simp] theorem State.storeGrid_faultInfo (s : State) (p : Nat) (g : Grid × BitVec 16) : (s.storeGrid p g).faultInfo = s.faultInfo := (rfl)
@[simp] theorem State.storeGrid_faultAddr (s : State) (p : Nat) (g : Grid × BitVec 16) : (s.storeGrid p g).faultAddr = s.faultAddr := (rfl)
@[simp] theorem State.storeGrid_frame (s : State) (p : Nat) (g : Grid × BitVec 16) : (s.storeGrid p g).frame = s.frame := (rfl)
@[simp] theorem State.storeGrid_job (s : State) (p : Nat) (g : Grid × BitVec 16) : (s.storeGrid p g).job = s.job := (rfl)
@[simp] theorem State.storeGrid_prngState (s : State) (p : Nat) (g : Grid × BitVec 16) : (s.storeGrid p g).prngState = g.2 := (rfl)
@[simp] theorem State.storeGrid_prngOut (s : State) (p : Nat) (g : Grid × BitVec 16) : (s.storeGrid p g).prngOut = s.prngOut := (rfl)
@[simp] theorem State.storeGrid_grain (s : State) (p : Nat) (g : Grid × BitVec 16) : (s.storeGrid p g).grain = Cells.overlay (gridCells p g.1) s.grain := (rfl)
@[simp] theorem State.storeGrid_scaling (s : State) (p : Nat) (g : Grid × BitVec 16) : (s.storeGrid p g).scaling = s.scaling := (rfl)
@[simp] theorem State.storeGrid_mem (s : State) (p : Nat) (g : Grid × BitVec 16) : (s.storeGrid p g).mem = s.mem := (rfl)
@[simp] theorem State.storeGrid_command (s : State) (p : Nat) (g : Grid × BitVec 16) : (s.storeGrid p g).command = s.command := (rfl)
@[simp] theorem State.storeGrid_events (s : State) (p : Nat) (g : Grid × BitVec 16) : (s.storeGrid p g).events = s.events := (rfl)
@[simp] theorem State.storeGrid_response (s : State) (p : Nat) (g : Grid × BitVec 16) : (s.storeGrid p g).response = s.response := (rfl)
@[simp] theorem State.storeGrid_drawn (s : State) (p : Nat) (g : Grid × BitVec 16) : (s.storeGrid p g).drawn = s.drawn := (rfl)
@[simp] theorem State.storeGrid_params (s : State) (p : Nat) (g : Grid × BitVec 16) : (s.storeGrid p g).params = s.params := (rfl)

/-! afterCompletion -/

@[simp] theorem State.afterCompletion_ctrl (s : State) : (s.afterCompletion).ctrl = s.ctrl := (rfl)
@[simp] theorem State.afterCompletion_status (s : State) : (s.afterCompletion).status = ({ busy := false, done := true, fault := s.status.fault, faultCode := s.status.faultCode } : Status) := (rfl)
@[simp] theorem State.afterCompletion_faultInfo (s : State) : (s.afterCompletion).faultInfo = s.faultInfo := (rfl)
@[simp] theorem State.afterCompletion_faultAddr (s : State) : (s.afterCompletion).faultAddr = s.faultAddr := (rfl)
@[simp] theorem State.afterCompletion_frame (s : State) : (s.afterCompletion).frame = s.frame := (rfl)
@[simp] theorem State.afterCompletion_job (s : State) : (s.afterCompletion).job = s.job := (rfl)
@[simp] theorem State.afterCompletion_prngState (s : State) : (s.afterCompletion).prngState = s.prngState := (rfl)
@[simp] theorem State.afterCompletion_prngOut (s : State) : (s.afterCompletion).prngOut = s.prngOut := (rfl)
@[simp] theorem State.afterCompletion_grain (s : State) : (s.afterCompletion).grain = s.grain := (rfl)
@[simp] theorem State.afterCompletion_scaling (s : State) : (s.afterCompletion).scaling = s.scaling := (rfl)
@[simp] theorem State.afterCompletion_mem (s : State) : (s.afterCompletion).mem = s.mem := (rfl)
@[simp] theorem State.afterCompletion_command (s : State) : (s.afterCompletion).command = none := (rfl)
@[simp] theorem State.afterCompletion_events (s : State) : (s.afterCompletion).events = s.events := (rfl)
@[simp] theorem State.afterCompletion_response (s : State) : (s.afterCompletion).response = s.response := (rfl)
@[simp] theorem State.afterCompletion_drawn (s : State) : (s.afterCompletion).drawn = s.drawn := (rfl)
@[simp] theorem State.afterCompletion_params (s : State) : (s.afterCompletion).params = s.params := (rfl)

/-! afterFault -/

@[simp] theorem State.afterFault_ctrl (s : State) (c : FaultCode) (i a : Word) : (s.afterFault c i a).ctrl = s.ctrl := (rfl)
@[simp] theorem State.afterFault_status (s : State) (c : FaultCode) (i a : Word) : (s.afterFault c i a).status = ({ busy := false, done := s.status.done, fault := true, faultCode := if s.status.fault then s.status.faultCode else c } : Status) := (rfl)
@[simp] theorem State.afterFault_faultInfo (s : State) (c : FaultCode) (i a : Word) : (s.afterFault c i a).faultInfo = (if s.status.fault then s.faultInfo else i) := (rfl)
@[simp] theorem State.afterFault_faultAddr (s : State) (c : FaultCode) (i a : Word) : (s.afterFault c i a).faultAddr = (if s.status.fault then s.faultAddr else a) := (rfl)
@[simp] theorem State.afterFault_frame (s : State) (c : FaultCode) (i a : Word) : (s.afterFault c i a).frame = s.frame := (rfl)
@[simp] theorem State.afterFault_job (s : State) (c : FaultCode) (i a : Word) : (s.afterFault c i a).job = s.job := (rfl)
@[simp] theorem State.afterFault_prngState (s : State) (c : FaultCode) (i a : Word) : (s.afterFault c i a).prngState = s.prngState := (rfl)
@[simp] theorem State.afterFault_prngOut (s : State) (c : FaultCode) (i a : Word) : (s.afterFault c i a).prngOut = s.prngOut := (rfl)
@[simp] theorem State.afterFault_grain (s : State) (c : FaultCode) (i a : Word) : (s.afterFault c i a).grain = s.grain := (rfl)
@[simp] theorem State.afterFault_scaling (s : State) (c : FaultCode) (i a : Word) : (s.afterFault c i a).scaling = s.scaling := (rfl)
@[simp] theorem State.afterFault_mem (s : State) (c : FaultCode) (i a : Word) : (s.afterFault c i a).mem = s.mem := (rfl)
@[simp] theorem State.afterFault_command (s : State) (c : FaultCode) (i a : Word) : (s.afterFault c i a).command = none := (rfl)
@[simp] theorem State.afterFault_events (s : State) (c : FaultCode) (i a : Word) : (s.afterFault c i a).events = s.events := (rfl)
@[simp] theorem State.afterFault_response (s : State) (c : FaultCode) (i a : Word) : (s.afterFault c i a).response = s.response := (rfl)
@[simp] theorem State.afterFault_drawn (s : State) (c : FaultCode) (i a : Word) : (s.afterFault c i a).drawn = s.drawn := (rfl)
@[simp] theorem State.afterFault_params (s : State) (c : FaultCode) (i a : Word) : (s.afterFault c i a).params = s.params := (rfl)

/-! recordFault and raise: the first fault wins (60_exceptions.md R203) -/

/-- Recording a fault, written out. -/
theorem State.recordFault_eq (s : State) (code : FaultCode) (info addr : Word) :
    s.recordFault code info addr =
      { s with
        status := { busy := s.status.busy, done := s.status.done, fault := true,
                    faultCode := if s.status.fault then s.status.faultCode else code }
        faultInfo := if s.status.fault then s.faultInfo else info
        faultAddr := if s.status.fault then s.faultAddr else addr } := by
  unfold State.recordFault
  rcases s with ⟨_, ⟨_, _, fault, _⟩⟩
  cases fault <;> rfl

/-- A fault raised by a command, written out. -/
theorem State.raise_eq (s : State) (code : FaultCode) (info addr : Word) :
    s.raise code info addr = s.afterFault code info addr := by
  rw [State.raise, State.recordFault_eq]
  rfl

/-- Completion, written out. -/
theorem State.complete_eq (s : State) : s.complete = s.afterCompletion := rfl


@[simp] theorem State.recordFault_ctrl (s : State) (c : FaultCode) (i a : Word) : (s.recordFault c i a).ctrl = s.ctrl := by
  rw [State.recordFault_eq]

@[simp] theorem State.recordFault_frame (s : State) (c : FaultCode) (i a : Word) : (s.recordFault c i a).frame = s.frame := by
  rw [State.recordFault_eq]

@[simp] theorem State.recordFault_job (s : State) (c : FaultCode) (i a : Word) : (s.recordFault c i a).job = s.job := by
  rw [State.recordFault_eq]

@[simp] theorem State.recordFault_prngState (s : State) (c : FaultCode) (i a : Word) : (s.recordFault c i a).prngState = s.prngState := by
  rw [State.recordFault_eq]

@[simp] theorem State.recordFault_prngOut (s : State) (c : FaultCode) (i a : Word) : (s.recordFault c i a).prngOut = s.prngOut := by
  rw [State.recordFault_eq]

@[simp] theorem State.recordFault_grain (s : State) (c : FaultCode) (i a : Word) : (s.recordFault c i a).grain = s.grain := by
  rw [State.recordFault_eq]

@[simp] theorem State.recordFault_scaling (s : State) (c : FaultCode) (i a : Word) : (s.recordFault c i a).scaling = s.scaling := by
  rw [State.recordFault_eq]

@[simp] theorem State.recordFault_mem (s : State) (c : FaultCode) (i a : Word) : (s.recordFault c i a).mem = s.mem := by
  rw [State.recordFault_eq]

@[simp] theorem State.recordFault_command (s : State) (c : FaultCode) (i a : Word) : (s.recordFault c i a).command = s.command := by
  rw [State.recordFault_eq]

@[simp] theorem State.recordFault_events (s : State) (c : FaultCode) (i a : Word) : (s.recordFault c i a).events = s.events := by
  rw [State.recordFault_eq]

@[simp] theorem State.recordFault_response (s : State) (c : FaultCode) (i a : Word) : (s.recordFault c i a).response = s.response := by
  rw [State.recordFault_eq]

@[simp] theorem State.recordFault_drawn (s : State) (c : FaultCode) (i a : Word) : (s.recordFault c i a).drawn = s.drawn := by
  rw [State.recordFault_eq]

@[simp] theorem State.recordFault_params (s : State) (c : FaultCode) (i a : Word) : (s.recordFault c i a).params = s.params := by
  rw [State.recordFault_eq]

@[simp] theorem State.raise_ctrl (s : State) (c : FaultCode) (i a : Word) : (s.raise c i a).ctrl = s.ctrl := by
  rw [State.raise_eq]; rfl

@[simp] theorem State.raise_frame (s : State) (c : FaultCode) (i a : Word) : (s.raise c i a).frame = s.frame := by
  rw [State.raise_eq]; rfl

@[simp] theorem State.raise_job (s : State) (c : FaultCode) (i a : Word) : (s.raise c i a).job = s.job := by
  rw [State.raise_eq]; rfl

@[simp] theorem State.raise_prngState (s : State) (c : FaultCode) (i a : Word) : (s.raise c i a).prngState = s.prngState := by
  rw [State.raise_eq]; rfl

@[simp] theorem State.raise_prngOut (s : State) (c : FaultCode) (i a : Word) : (s.raise c i a).prngOut = s.prngOut := by
  rw [State.raise_eq]; rfl

@[simp] theorem State.raise_grain (s : State) (c : FaultCode) (i a : Word) : (s.raise c i a).grain = s.grain := by
  rw [State.raise_eq]; rfl

@[simp] theorem State.raise_scaling (s : State) (c : FaultCode) (i a : Word) : (s.raise c i a).scaling = s.scaling := by
  rw [State.raise_eq]; rfl

@[simp] theorem State.raise_mem (s : State) (c : FaultCode) (i a : Word) : (s.raise c i a).mem = s.mem := by
  rw [State.raise_eq]; rfl

@[simp] theorem State.raise_command (s : State) (c : FaultCode) (i a : Word) : (s.raise c i a).command = none := by
  rw [State.raise_eq]; rfl

@[simp] theorem State.raise_events (s : State) (c : FaultCode) (i a : Word) : (s.raise c i a).events = s.events := by
  rw [State.raise_eq]; rfl

@[simp] theorem State.raise_response (s : State) (c : FaultCode) (i a : Word) : (s.raise c i a).response = s.response := by
  rw [State.raise_eq]; rfl

@[simp] theorem State.raise_drawn (s : State) (c : FaultCode) (i a : Word) : (s.raise c i a).drawn = s.drawn := by
  rw [State.raise_eq]; rfl

@[simp] theorem State.raise_params (s : State) (c : FaultCode) (i a : Word) : (s.raise c i a).params = s.params := by
  rw [State.raise_eq]; rfl

end Sys2Proof.Machine
end

