-- ==== Sys2Proof/Laws/Grain.lean ====
section
/-!
SUPPORT. The laws of grain-table generation: the fill (41_grain_tables.md R121, R124), the shape the AR pass keeps, and what a
stored grid leaves in grain RAM.
-/

namespace Sys2Proof.Machine

/-! The generator -/

theorem lfsrAfter_add (j k : Nat) (r : BitVec 16) : lfsrAfter (j + k) r = lfsrAfter k (lfsrAfter j r) := by
  induction j generalizing r with
  | zero => simp [lfsrAfter]
  | succ j ih => rw [Nat.succ_add]; exact ih (lfsrStep r)

theorem lfsrAfter_succ (k : Nat) (r : BitVec 16) : lfsrAfter (k + 1) r = lfsrStep (lfsrAfter k r) := lfsrAfter_add k 1 r

theorem draw_fst (r : BitVec 16) (n : Nat) : (draw r n).1 = lfsrStep r := rfl

theorem draw_snd_lt (r : BitVec 16) (n : Nat) : (draw r n).2 < 2 ^ n := Nat.mod_lt _ (Nat.two_pow_pos n)

/-! Grids -/

/-- A grid has `h` rows of `w` values. -/
def Grid.Shape (h w : Nat) (g : Grid) : Prop := g.length = h ∧ ∀ row ∈ g, row.length = w

theorem fillRow_length (p : Params) (shift n : Nat) (r : BitVec 16) : (fillRow p shift n r).1.length = n := by
  induction n generalizing r with
  | zero => rfl
  | succ n ih => simp [fillRow, ih]

theorem fillRow_state (p : Params) (shift n : Nat) (r : BitVec 16) : (fillRow p shift n r).2 = lfsrAfter n r := by
  induction n generalizing r with
  | zero => rfl
  | succ n ih => simp [fillRow, ih, lfsrAfter, draw_fst]

/-- Value `x` of a filled row comes from draw number `x`. -/
theorem fillRow_getD (p : Params) (shift : Nat) {n x : Nat} (hx : x < n) (r : BitVec 16) :
    (fillRow p shift n r).1.getD x 0 = round2 (gaussAt p (draw (lfsrAfter x r) 11).2) shift := by
  induction n generalizing r x with
  | zero => omega
  | succ n ih =>
    cases x with
    | zero => rfl
    | succ x => exact ih (by omega) (lfsrStep r)

theorem fillGrid_shape (p : Params) (shift w h : Nat) (r : BitVec 16) : Grid.Shape h w (fillGrid p shift w h r).1 := by
  induction h generalizing r with
  | zero => exact ⟨rfl, by simp [fillGrid]⟩
  | succ h ih =>
    obtain ⟨h1, h2⟩ := ih (fillRow p shift w r).2
    refine ⟨by simp [fillGrid, h1], ?_⟩
    simp only [fillGrid, List.mem_cons, forall_eq_or_imp, fillRow_length, true_and]
    exact h2

theorem fillGrid_state (p : Params) (shift w h : Nat) (r : BitVec 16) : (fillGrid p shift w h r).2 = lfsrAfter (h * w) r := by
  induction h generalizing r with
  | zero => simp [fillGrid, lfsrAfter]
  | succ h ih =>
    show (fillGrid p shift w h (fillRow p shift w r).2).2 = _
    rw [ih, fillRow_state, ← lfsrAfter_add, Nat.succ_mul, Nat.add_comm]

/-- Cell (y, x) of a filled grid comes from draw number y·w + x. -/
theorem fillGrid_at (p : Params) (shift : Nat) {w h y x : Nat} (hy : y < h) (hx : x < w) (r : BitVec 16) :
    Grid.at (fillGrid p shift w h r).1 y x = round2 (gaussAt p (draw (lfsrAfter (y * w + x) r) 11).2) shift := by
  induction h generalizing r y with
  | zero => omega
  | succ h ih =>
    cases y with
    | zero => simpa [fillGrid, Grid.at] using fillRow_getD p shift hx r
    | succ y =>
      show Grid.at (fillGrid p shift w h (fillRow p shift w r).2).1 y x = _
      have hcell : w + (y * w + x) = (y + 1) * w + x := by rw [Nat.succ_mul]; omega
      rw [ih (by omega), fillRow_state, ← lfsrAfter_add, hcell]

theorem Grid.put_shape {h w : Nat} {g : Grid} (hg : Grid.Shape h w g) (y x : Nat) (v : Int) :
    Grid.Shape h w (Grid.put g y x v) := by
  refine ⟨by simp [Grid.put, hg.1], fun row hrow => ?_⟩
  rcases List.mem_or_eq_of_mem_set hrow with hrow | rfl
  · exact hg.2 row hrow
  · by_cases hy : y < g.length
    · rw [List.length_set, List.getD_eq_getElem _ _ hy]
      exact hg.2 _ (List.getElem_mem hy)
    · unfold Grid.put at hrow
      rw [List.set_eq_of_length_le (by omega)] at hrow
      exact hg.2 _ hrow

/-- A grid reads the value put at a cell of it, and elsewhere what it read before. -/
theorem Grid.at_put {h w : Nat} {g : Grid} (hg : Grid.Shape h w g) {y x : Nat} (hy : y < h) (hx : x < w) (v : Int) (y' x' : Nat) :
    Grid.at (Grid.put g y x v) y' x' = if y' = y ∧ x' = x then v else Grid.at g y' x' := by
  have hyl : y < g.length := by rw [hg.1]; exact hy
  have hxl : x < (g.getD y []).length := by
    rw [List.getD_eq_getElem _ _ hyl, hg.2 _ (List.getElem_mem hyl)]; exact hx
  unfold Grid.at Grid.put
  by_cases h1 : y' = y
  · subst h1
    rw [List.getD_eq_getElem?_getD (l := g.set _ _), List.getElem?_set_self hyl, Option.getD_some]
    by_cases h2 : x' = x
    · subst h2
      rw [List.getD_eq_getElem?_getD, List.getElem?_set_self hxl]
      simp
    · rw [List.getD_eq_getElem?_getD, List.getElem?_set_ne (fun h => h2 h.symm), ← List.getD_eq_getElem?_getD]
      simp [h2]
  · rw [List.getD_eq_getElem?_getD (l := g.set _ _), List.getElem?_set_ne (fun h => h1 h.symm), ← List.getD_eq_getElem?_getD]
    simp [h1]

theorem mem_arRegion {h w y x : Nat} : (y, x) ∈ arRegion h w ↔ 3 ≤ y ∧ y < h ∧ 3 ≤ x ∧ x + 3 < w := by
  simp only [arRegion, List.mem_flatMap, List.mem_range, List.mem_map, Prod.mk.injEq]
  constructor
  · rintro ⟨i, hi, j, hj, rfl, rfl⟩; omega
  · rintro ⟨h1, h2, h3, h4⟩; exact ⟨y - 3, by omega, x - 3, by omega, by omega, by omega⟩

/-- The AR pass keeps the shape. -/
theorem arPass_shape (f : FrameRegs) (coef : Nat → Int) (extra : Nat → Nat → Int) {h w : Nat} {g : Grid} (hg : Grid.Shape h w g) :
    Grid.Shape h w (arPass f coef extra h w g) := by
  unfold arPass
  induction arRegion h w generalizing g with
  | nil => exact hg
  | cons c rest ih => exact ih (Grid.put_shape hg c.1 c.2 _)

/-- Puts at cells of a list leave every cell outside the list alone. -/
theorem foldl_put_at_of_not_mem {h w : Nat} (val : Grid → Nat → Nat → Int) (cells : List (Nat × Nat))
    (hc : ∀ c ∈ cells, c.1 < h ∧ c.2 < w) {g : Grid} (hg : Grid.Shape h w g) {y x : Nat} (hyx : (y, x) ∉ cells) :
    Grid.at (cells.foldl (fun acc c => Grid.put acc c.1 c.2 (val acc c.1 c.2)) g) y x = Grid.at g y x := by
  induction cells generalizing g with
  | nil => rfl
  | cons c rest ih =>
    rw [List.foldl_cons, ih (fun d hd => hc d (by simp [hd])) (Grid.put_shape hg _ _ _) (fun h => hyx (by simp [h])),
      Grid.at_put hg (hc c (by simp)).1 (hc c (by simp)).2, if_neg]
    rintro ⟨rfl, rfl⟩
    exact hyx (by simp)

/-- A border cell keeps its initial value (41_grain_tables.md R120). -/
theorem arPass_border (f : FrameRegs) (coef : Nat → Int) (extra : Nat → Nat → Int) {h w : Nat} {g : Grid} (hg : Grid.Shape h w g)
    {y x : Nat} (hyx : ¬ (3 ≤ y ∧ y < h ∧ 3 ≤ x ∧ x + 3 < w)) : Grid.at (arPass f coef extra h w g) y x = Grid.at g y x :=
  foldl_put_at_of_not_mem (arValue f coef extra) (arRegion h w)
    (fun c hc => by
      obtain ⟨h1, h2, h3, h4⟩ := mem_arRegion.mp (show (c.1, c.2) ∈ arRegion h w from hc)
      exact ⟨h2, by omega⟩) hg (fun h => hyx (mem_arRegion.mp h))

/-! Grids in grain RAM -/

theorem mem_gridCells {p : Nat} {g : Grid} {k : Nat} {v : BitVec 16} :
    (k, v) ∈ gridCells p g ↔ ∃ r c row z, g[r]? = some row ∧ row[c]? = some z ∧ k = grainIndex p r c ∧ v = BitVec.ofInt 16 z := by
  simp only [gridCells, List.mem_flatMap, List.mem_map, Prod.exists, Prod.mk.injEq, List.mem_zipIdx_iff_getElem?]
  constructor
  · rintro ⟨row, r, hr, z, c, hz, rfl, rfl⟩; exact ⟨r, c, row, z, hr, hz, rfl, rfl⟩
  · rintro ⟨r, c, row, z, hr, hz, rfl, rfl⟩; exact ⟨row, r, hr, z, c, hz, rfl, rfl⟩

theorem pairwise_zipIdx {α : Type} (l : List α) (k : Nat) : (l.zipIdx k).Pairwise (fun a b => a.2 < b.2) := by
  induction l generalizing k with
  | nil => simp
  | cons a l ih =>
    rw [List.zipIdx_cons, List.pairwise_cons]
    refine ⟨fun b hb => ?_, ih (k + 1)⟩
    have := List.le_snd_of_mem_zipIdx hb
    exact this

/-- The cells of a grid that fits a plane rise strictly. -/
theorem gridCells_rising {p h w : Nat} {g : Grid} (hg : Grid.Shape h w g) (hw : w ≤ 82) : Cells.Rising (gridCells p g) := by
  unfold Cells.Rising gridCells
  rw [List.pairwise_flatMap]
  constructor
  · intro row _
    rw [List.pairwise_map]
    exact (pairwise_zipIdx row.1 0).imp (fun hab => by unfold grainIndex; dsimp only; omega)
  · refine (pairwise_zipIdx g 0).imp_of_mem (fun {a b} ha _ hab => ?_)
    intro x hx y hy
    obtain ⟨c, hc, rfl⟩ := List.mem_map.mp hx
    obtain ⟨d, _, rfl⟩ := List.mem_map.mp hy
    have hlen : a.1.length = w := hg.2 a.1 (List.mem_of_getElem? (List.mem_zipIdx_iff_getElem?.mp ha))
    have hcl : c.2 < a.1.length := (List.getElem?_eq_some_iff.mp (List.mem_zipIdx_iff_getElem?.mp hc)).1
    unfold grainIndex
    dsimp only
    omega

theorem gridCells_wf {p h w : Nat} {g : Grid} (hg : Grid.Shape h w g) (hw : w ≤ 82) (hh : h ≤ 74) (hp : p < 3) :
    Cells.wf grainCells (gridCells p g) = true := by
  rw [Cells.wf_iff]
  refine ⟨gridCells_rising hg hw, fun c hc => ?_⟩
  obtain ⟨r, x, row, z, hr, hz, hk, -⟩ := mem_gridCells.mp (show (c.1, c.2) ∈ gridCells p g from hc)
  obtain ⟨hr1, hr2⟩ := List.getElem?_eq_some_iff.mp hr
  obtain ⟨hz1, -⟩ := List.getElem?_eq_some_iff.mp hz
  have h1 := hg.1
  have h2 := hg.2 row (hr2 ▸ List.getElem_mem hr1)
  unfold grainIndex at hk
  unfold grainCells
  omega

/-- A cell of a stored grid. -/
theorem get_gridCells {p h w : Nat} {g : Grid} (hg : Grid.Shape h w g) (hw : w ≤ 82) {r c : Nat} (hr : r < h) (hc : c < w) :
    Cells.get (gridCells p g) (grainIndex p r c) = some (BitVec.ofInt 16 (Grid.at g r c)) := by
  have hr' : r < g.length := by rw [hg.1]; exact hr
  have hc' : c < (g[r]).length := by rw [hg.2 _ (List.getElem_mem hr')]; exact hc
  refine Cells.get_of_mem (gridCells_rising hg hw) (mem_gridCells.mpr ⟨r, c, g[r], g[r][c], ?_, ?_, rfl, ?_⟩)
  · exact List.getElem?_eq_getElem hr'
  · exact List.getElem?_eq_getElem hc'
  · simp [Grid.at, hr', hc']

/-- A stored grid holds no cell outside it. -/
theorem get_gridCells_of_outside {p h w : Nat} {g : Grid} (hg : Grid.Shape h w g) {k : Nat}
    (hk : ∀ r c, r < h → c < w → k ≠ grainIndex p r c) : Cells.get (gridCells p g) k = none := by
  refine Cells.get_eq_none (fun cell hcell hkc => ?_)
  obtain ⟨r, x, row, z, hr, hz, hk', -⟩ := mem_gridCells.mp (show (cell.1, cell.2) ∈ gridCells p g from hcell)
  obtain ⟨hr1, hr2⟩ := List.getElem?_eq_some_iff.mp hr
  obtain ⟨hz1, -⟩ := List.getElem?_eq_some_iff.mp hz
  have h1 := hg.1
  have h2 := hg.2 row (hr2 ▸ List.getElem_mem hr1)
  exact hk r x (by omega) (by omega) (hkc ▸ hk')

/-- The finished grid of a layout has the layout's shape. -/
theorem grainGrid_shape (s : State) (lay : Layout) (seed : BitVec 16) (coef : Nat → Int) (extra : Nat → Nat → Int) :
    Grid.Shape lay.gridH lay.gridW (grainGrid s lay seed coef extra).1 :=
  arPass_shape _ _ _ (fillGrid_shape _ _ _ _ _)

/-- The generator state a GEN_GRAIN command leaves: one draw per cell (41_grain_tables.md R124, R127). -/
theorem grainGrid_state (s : State) (lay : Layout) (seed : BitVec 16) (coef : Nat → Int) (extra : Nat → Nat → Int) :
    (grainGrid s lay seed coef extra).2 = lfsrAfter (lay.gridH * lay.gridW) seed :=
  fillGrid_state _ _ _ _ _

theorem Layout.gridW_le (lay : Layout) : lay.gridW ≤ 82 := by unfold Layout.gridW; split <;> omega

theorem Layout.gridH_le (lay : Layout) : lay.gridH ≤ 73 := by unfold Layout.gridH; split <;> omega

/-- GEN_GRAIN_Y's grid has 73 rows of 82 cells. -/
theorem lumaGrid_shape (s : State) : Grid.Shape 73 82 (lumaGrid s).1 := by
  have h := grainGrid_shape s Layout.luma s.frame.seed (coefficient s.frame.arY) (fun _ _ => 0)
  exact h

theorem chromaGrid_shape (s : State) (lay : Layout) (plane : Plane) :
    Grid.Shape lay.gridH lay.gridW (chromaGrid s lay plane).1 := by
  unfold chromaGrid
  exact grainGrid_shape _ _ _ _ _

/-- What a stored grid leaves in grain RAM: its own cells, and every other cell as before. -/
theorem storeGrid_grain {s : State} {p h w : Nat} {g : Grid × BitVec 16} (hg : Grid.Shape h w g.1) (hw : w ≤ 82) :
    (∀ r c, r < h → c < w → Cells.get (s.storeGrid p g).grain (grainIndex p r c) = some (BitVec.ofInt 16 (Grid.at g.1 r c))) ∧
      (∀ k, (∀ r c, r < h → c < w → k ≠ grainIndex p r c) → Cells.get (s.storeGrid p g).grain k = Cells.get s.grain k) := by
  have hget : ∀ k, Cells.get (s.storeGrid p g).grain k = (Cells.get (gridCells p g.1) k).or (Cells.get s.grain k) :=
    fun k => Cells.get_overlay (gridCells_rising hg hw) s.grain k
  refine ⟨fun r c hr hc => ?_, fun k hk => ?_⟩
  · rw [hget, get_gridCells hg hw hr hc, Option.some_or]
  · rw [hget, get_gridCells_of_outside hg hk, Option.none_or]

/-- A completed grain command, field by field: for any grid, so that no proof evaluates one. -/
theorem storeGrid_afterCompletion (s : State) (p : Nat) (g : Grid × BitVec 16) :
    (s.storeGrid p g).afterCompletion = { s.afterCompletion with grain := (s.storeGrid p g).grain, prngState := g.2 } := rfl

/-- A stored grid keeps the canonical form of grain RAM. -/
theorem storeGrid_wf {s : State} {p h w : Nat} {g : Grid × BitVec 16} (hg : Grid.Shape h w g.1) (hw : w ≤ 82) (hh : h ≤ 74)
    (hp : p < 3) (hs : Cells.wf grainCells s.grain = true) : Cells.wf grainCells (s.storeGrid p g).grain = true :=
  Cells.wf_overlay (gridCells_wf hg hw hh hp) hs

/-- What GEN_GRAIN_Y can do (41_grain_tables.md R126). -/
theorem execGenGrainY_eq (s : State) :
    execGenGrainY s =
      if s.frame.cfg.depthIllegal then .next (s.afterFault .badParam (encode .genGrainY) 0)
      else .next (s.storeGrid 0 (lumaGrid s)).afterCompletion := by
  unfold execGenGrainY
  rw [State.raise_eq]
  rfl

/-- If GEN_GRAIN_Y answers a next state, it has recorded BAD_PARAM or stored its grid (41_grain_tables.md R126). The grid
stays a variable, so that no later proof evaluates it. -/
theorem execGenGrainY_next {s t : State} (h : execGenGrainY s = .next t) :
    (s.frame.cfg.depthIllegal = true ∧ t = s.afterFault .badParam (encode .genGrainY) 0) ∨
      (s.frame.cfg.depthIllegal = false ∧ ∃ g, g = lumaGrid s ∧ t = (s.storeGrid 0 g).afterCompletion) := by
  rw [execGenGrainY_eq] at h
  split at h
  · next hd => exact Or.inl ⟨hd, (Host.Outcome.next.inj h).symm⟩
  · next hd => exact Or.inr ⟨by simpa using hd, _, rfl, (Host.Outcome.next.inj h).symm⟩

/-- What a GEN_GRAIN_UV command can do: if it answers a next state, it has recorded BAD_PARAM or stored its grid
(41_grain_tables.md R130). -/
theorem genGrainUV_next {w : Word} {lay : Layout} {plane : Plane} {s t : State} (h : genGrainUV w lay plane s = .next t) :
    (s.frame.cfg.depthIllegal = true ∧ t = s.afterFault .badParam w 0) ∨
      (s.frame.cfg.depthIllegal = false ∧ (s.frame.numPoints.numY = 0 ∨ lumaHeld s lay = true) ∧
        ∃ g, g = chromaGrid s lay plane ∧ t = (s.storeGrid (Plane.grainPlane plane) g).afterCompletion) := by
  unfold genGrainUV at h
  split at h
  · next hd =>
    rw [State.raise_eq] at h
    exact Or.inl ⟨hd, (Host.Outcome.next.inj h).symm⟩
  · next hd =>
    split at h
    · cases h
    · next hl =>
      refine Or.inr ⟨by simpa using hd, ?_, _, rfl, (Host.Outcome.next.inj h).symm⟩
      simp only [ne_eq, decide_not, Bool.and_eq_true, Bool.not_eq_true', decide_eq_false_iff_not, not_and,
        Bool.not_eq_false] at hl
      by_cases h0 : s.frame.numPoints.numY = 0
      · exact Or.inl h0
      · exact Or.inr (hl h0)

/-- A GEN_GRAIN_UV command that holds what it reads stores its grid. -/
theorem genGrainUV_of_held {w : Word} {lay : Layout} {plane : Plane} {s : State} (hd : s.frame.cfg.depthIllegal = false)
    (hl : s.frame.numPoints.numY = 0 ∨ lumaHeld s lay = true) :
    ∃ g, g = chromaGrid s lay plane ∧
      genGrainUV w lay plane s = .next (s.storeGrid (Plane.grainPlane plane) g).afterCompletion := by
  refine ⟨_, rfl, ?_⟩
  unfold genGrainUV
  rw [if_neg (by simp [hd]), if_neg (by rcases hl with h | h <;> simp [h])]
  rfl

/-- A GEN_GRAIN_UV command that meets a luma cell without a value (00_scope.md R13). -/
theorem genGrainUV_of_not_held {w : Word} {lay : Layout} {plane : Plane} {s : State} (hd : s.frame.cfg.depthIllegal = false)
    (hn : s.frame.numPoints.numY ≠ 0) (hl : lumaHeld s lay = false) : genGrainUV w lay plane s = .fault .uninitRead := by
  unfold genGrainUV
  rw [if_neg (by simp [hd]), if_pos (by rw [hl]; simpa using hn)]

end Sys2Proof.Machine
end

