-- ==== Sys2Proof/Laws/Overlay.lean ====
section
/-!
SUPPORT. The laws of the grain overlay: the positions of a band, what collecting its samples can do, and what an APPLY command
can do.
-/

namespace Sys2Proof.Machine

/-- The positions of a band are the samples (X, y) with X < pw and y < bh (43_apply_luma.md R150, 20_memory.md R72). -/
theorem mem_bandSamples {lay : Layout} (hb : 0 < lay.blockW) {pw bh X y : Nat} :
    (X, y) ∈ bandSamples lay pw bh ↔ X < pw ∧ y < bh := by
  simp only [bandSamples, List.mem_flatMap, List.mem_range, List.mem_map, Prod.mk.injEq, blockWidth]
  constructor
  · rintro ⟨b, hbl, y', hy, x, hx, rfl, rfl⟩
    omega
  · rintro ⟨hX, hy⟩
    refine ⟨X / lay.blockW, ?_, y, hy, X % lay.blockW, ?_, ?_, rfl⟩
    · rw [Nat.div_lt_iff_lt_mul hb]
      have h1 := Nat.div_add_mod (pw + lay.blockW - 1) lay.blockW
      have h2 := Nat.mod_lt (pw + lay.blockW - 1) hb
      rw [Nat.mul_comm]
      omega
    · have h1 := Nat.mod_lt X hb
      have h2 := Nat.div_add_mod X lay.blockW
      rw [Nat.mul_comm] at h2
      omega
    · have h2 := Nat.div_add_mod X lay.blockW
      rw [Nat.mul_comm] at h2
      omega

theorem Layout.blockW_pos {lay : Layout} (h : lay ∈ [Layout.luma, Layout.l420, Layout.l422, Layout.l444]) : 0 < lay.blockW := by
  simp only [List.mem_cons, List.not_mem_nil, or_false] at h
  rcases h with rfl | rfl | rfl | rfl <;> decide

/-- When every position has a sample, the collected samples are theirs, in order. -/
theorem collectSamples_ok {sample : Nat → Nat → Except Stop SampleWrite} {value : Nat → Nat → SampleWrite}
    {cells : List (Nat × Nat)} (h : ∀ c ∈ cells, sample c.1 c.2 = .ok (value c.1 c.2)) :
    collectSamples sample cells = .ok (cells.map (fun c => value c.1 c.2)) := by
  induction cells with
  | nil => rfl
  | cons c rest ih =>
    rw [collectSamples, h c (by simp), ih (fun d hd => h d (by simp [hd]))]
    rfl

/-- The first position that stops decides how collecting ends. -/
theorem collectSamples_first_error {sample : Nat → Nat → Except Stop SampleWrite} {before after : List (Nat × Nat)}
    {c : Nat × Nat} {e : Stop} (h : ∀ d ∈ before, ∃ w, sample d.1 d.2 = .ok w) (he : sample c.1 c.2 = .error e) :
    collectSamples sample (before ++ c :: after) = .error e := by
  induction before with
  | nil => rw [List.nil_append, collectSamples, he]
  | cons d rest ih =>
    obtain ⟨w, hw⟩ := h d (by simp)
    rw [List.cons_append, collectSamples, hw, ih (fun d' hd' => h d' (by simp [hd']))]

/-- Every collected sample is the sample of one of the positions. -/
theorem mem_collectSamples {sample : Nat → Nat → Except Stop SampleWrite} {cells : List (Nat × Nat)} {ws : List SampleWrite}
    (h : collectSamples sample cells = .ok ws) {w : SampleWrite} (hw : w ∈ ws) :
    ∃ c ∈ cells, sample c.1 c.2 = .ok w := by
  induction cells generalizing ws with
  | nil => cases h; simp at hw
  | cons c rest ih =>
    rw [collectSamples] at h
    split at h
    · cases h
    · next v hv =>
      split at h
      · cases h
      · next vs hvs =>
        cases h
        rcases List.mem_cons.mp hw with rfl | hw
        · exact ⟨c, by simp, hv⟩
        · obtain ⟨d, hd, hdw⟩ := ih hvs hw
          exact ⟨d, List.mem_cons_of_mem _ hd, hdw⟩

/-- A collection that stops was stopped by one of its positions. -/
theorem collectSamples_error {sample : Nat → Nat → Except Stop SampleWrite} {cells : List (Nat × Nat)} {e : Stop}
    (h : collectSamples sample cells = .error e) : ∃ c ∈ cells, sample c.1 c.2 = .error e := by
  induction cells with
  | nil => cases h
  | cons c rest ih =>
    rw [collectSamples] at h
    split at h
    · next hv => cases h; exact ⟨c, by simp, hv⟩
    · split at h
      · next hvs =>
        cases h
        obtain ⟨d, hd, hde⟩ := ih hvs
        exact ⟨d, List.mem_cons_of_mem _ hd, hde⟩
      · cases h

/-- Writing samples leaves every byte outside them alone. -/
theorem byteAt_writeSamples_of_not_mem {size : Nat} {ws : List SampleWrite} {a : Word}
    (h : ∀ w ∈ ws, a ∉ byteAddrs w.addr size) (m : Memory) : byteAt (writeSamples size ws m) a = byteAt m a := by
  unfold writeSamples
  induction ws generalizing m with
  | nil => rfl
  | cons w rest ih =>
    rw [List.foldl_cons, ih (fun v hv => h v (by simp [hv])), byteAt_memWrite_of_not_mem (h w (by simp))]

theorem Memory.wf_writeSamples {m : Memory} (h : Memory.wf m = true) (size : Nat) (ws : List SampleWrite) :
    Memory.wf (writeSamples size ws m) = true := by
  unfold writeSamples
  induction ws generalizing m with
  | nil => exact h
  | cons w rest ih => exact ih (Memory.wf_memWrite h _ _ _)

/-- What a sample reads as once samples are written: its value, if every other write is to the same sample with the same value
or to other bytes. -/
theorem memRead_writeSamples {size : Nat} (hs : size ≤ 2) {ws : List SampleWrite} {w : SampleWrite} (hw : w ∈ ws)
    (hv : w.value < 256 ^ size)
    (h : ∀ w' ∈ ws, w' = w ∨ ∀ b ∈ byteAddrs w.addr size, b ∉ byteAddrs w'.addr size) (m : Memory) :
    memRead (writeSamples size ws m) w.addr size = w.value := by
  unfold writeSamples
  induction ws using List.reverseRecOn with
  | nil => simp at hw
  | append_singleton ws w' ih =>
    rw [List.foldl_append, List.foldl_cons, List.foldl_nil]
    by_cases he : w' = w
    · rw [he, memRead_memWrite hs, Nat.mod_eq_of_lt hv]
    · have hne := (h w' (by simp)).resolve_left he
      rw [memRead_congr (fun b hb => byteAt_memWrite_of_not_mem (hne b hb) _ _)]
      refine ih ?_ (fun v hv => h v (by simp [hv]))
      exact (List.mem_append.mp hw).resolve_right (fun hm => he (List.mem_singleton.mp hm).symm)

/-- What an APPLY command can do: if it answers a next state, it has recorded BAD_PARAM or BAD_GEOMETRY, completed with its
collected samples written, or met a hardware fault that leaves its dst footprint unspecified (60_exceptions.md R203, R207). -/
theorem applyBand_next {w : Word} {lay : Layout} {uv : Bool} {sample : Nat → Nat → Except Stop SampleWrite} {s t : State}
    (h : applyBand w lay uv sample s = .next t) :
    t = s.afterFault .badParam w 0 ∨ t = s.afterFault .badGeometry w 0 ∨
      (∃ ws, collectSamples sample (bandSamples lay s.pw s.bh) = .ok ws ∧
        t = { s.afterCompletion with mem := writeSamples s.frame.cfg.container ws s.mem }) ∨
      (∃ code a, collectSamples sample (bandSamples lay s.pw s.bh) = .error (.hardware code a) ∧
        t = { (s.afterFault code w a) with mem := (s.unspecify (s.dstBytes lay)).mem, drawn := s.drawn + 1 }) := by
  unfold applyBand at h
  split at h
  · rw [State.raise_eq] at h; exact Or.inl (Host.Outcome.next.inj h).symm
  split at h
  · rw [State.raise_eq] at h; exact Or.inr (Or.inl (Host.Outcome.next.inj h).symm)
  split at h
  · cases h
  split at h
  · cases h
  rcases hc : collectSamples sample (bandSamples lay s.pw s.bh) with e | ws
  · rw [hc] at h
    cases e with
    | hardware code a =>
      simp only [finishBand, State.raise_eq] at h
      exact Or.inr (Or.inr (Or.inr ⟨code, a, rfl, (Host.Outcome.next.inj h).symm⟩))
    | model f => cases h
  · rw [hc] at h
    exact Or.inr (Or.inr (Or.inl ⟨ws, rfl, (Host.Outcome.next.inj h).symm⟩))

/-- An APPLY command that is admitted ends as its samples say. -/
theorem applyBand_of_admitted {w : Word} {lay : Layout} {uv : Bool} {sample : Nat → Nat → Except Stop SampleWrite} {s : State}
    (h : s.bandAdmitted lay uv = true) :
    applyBand w lay uv sample s = finishBand w lay s (collectSamples sample (bandSamples lay s.pw s.bh)) := by
  unfold State.bandAdmitted at h
  simp only [Bool.and_eq_true, Bool.not_eq_true'] at h
  obtain ⟨⟨⟨h1, h2⟩, h3⟩, h4⟩ := h
  simp [applyBand, h1, h2, h3, h4]

/-! The accesses of a sample -/

/-- A good sample reads its value (20_memory.md R69). -/
theorem readSample_of_good {s : State} {a : Word} (h : s.sampleGood a = true) : s.readSample a = .ok (s.sampleValue a) := by
  simp only [State.sampleGood, Bool.and_eq_true, decide_eq_true_eq] at h
  show (if _ then _ else _) = _
  rw [if_pos h.1]
  exact if_neg (Nat.not_lt.mpr h.2)

/-- A held grain cell is what `lut` answers (43_apply_luma.md R153). -/
theorem lut_of_held {s : State} {lay : Layout} {p b c i x y : Nat} (h : s.lutHeld lay p b c i x y = true) :
    s.lut lay p b c i x y = .ok (s.lutValue lay p b c i x y) := by
  unfold State.lutHeld at h
  unfold State.lut State.lutValue
  rcases hg : grainAt s.grain p (lutRow s lay b c i y) (lutCol s lay b c i x) with _ | v
  · rw [hg] at h; cases h
  · rfl

/-- Where every grain cell of a sample is held, its grain value is the formula of 43_apply_luma.md R154. -/
theorem sampleGrain_of_held {s : State} {lay : Layout} {p X y : Nat} (h : s.grainHeld lay p X y = true) :
    s.sampleGrain lay p X y = .ok (s.grainResult lay p X y) := by
  unfold State.grainHeld at h
  simp only [Bool.and_eq_true, Bool.or_eq_true, decide_eq_true_eq] at h
  obtain ⟨⟨⟨h00, h01⟩, h10⟩, h11⟩ := h
  unfold State.sampleGrain State.grainValue State.grainResult
  simp only [lut_of_held h00, bind, Except.bind]
  by_cases hx : xStart s lay (X / lay.blockW) ≤ X % lay.blockW <;> by_cases hy : yStart s lay ≤ y
  · simp [hx, hy, pure, Except.pure]
  · simp [hx, hy, lut_of_held (h01.resolve_left hy), pure, Except.pure]
  · simp [hx, hy, lut_of_held (h10.resolve_left hx), pure, Except.pure]
  · have h11' := h11.resolve_left (by simp [hx, hy])
    simp [hx, hy, lut_of_held (h01.resolve_left hy), lut_of_held (h10.resolve_left hx), lut_of_held h11', pure, Except.pure]

/-! How an access stops -/

/-- What can follow a first step of `Except`. -/
theorem bind_error {ε α β : Type} {x : Except ε α} {f : α → Except ε β} {e : ε} (h : (x >>= f) = .error e) :
    x = .error e ∨ ∃ a, x = .ok a ∧ f a = .error e := by
  cases x with
  | error e' =>
    have h' : (Except.error e' : Except ε β) = .error e := h
    cases h'
    exact Or.inl rfl
  | ok a => exact Or.inr ⟨a, rfl, h⟩

theorem bind_ok {ε α β : Type} {x : Except ε α} {f : α → Except ε β} {b : β} (h : (x >>= f) = .ok b) :
    ∃ a, x = .ok a ∧ f a = .ok b := by
  cases x with
  | error e' => cases h
  | ok a => exact ⟨a, rfl, h⟩

/-- A sample read that stops in hardware reports BUS_ERROR or SAMPLE_RANGE at its address (20_memory.md R69). -/
theorem readSample_hardware {s : State} {a b : Word} {code : FaultCode} (h : s.readSample a = .error (.hardware code b)) :
    b = a ∧ (code = .busError ∨ code = .sampleRange) := by
  unfold State.readSample at h
  dsimp only at h
  split at h
  · split at h
    · cases h; exact ⟨rfl, Or.inr rfl⟩
    · cases h
  · cases h; exact ⟨rfl, Or.inl rfl⟩

/-- A sample write that stops reports BUS_ERROR at its address (20_memory.md R70). -/
theorem sampleWrite_cases (s : State) (a : Word) (v : Int) :
    s.sampleWrite a v = .ok { addr := a, value := v.toNat } ∨ s.sampleWrite a v = .error (.hardware .busError a) := by
  unfold State.sampleWrite
  split
  · exact Or.inl rfl
  · exact Or.inr rfl

theorem scalingEntry_not_hardware {s : State} {t i : Nat} {code : FaultCode} {b : Word} :
    s.scalingEntry t i ≠ .error (.hardware code b) := by
  unfold State.scalingEntry
  split <;> simp

theorem scaleLookup_not_hardware {s : State} {t v : Nat} {code : FaultCode} {b : Word} :
    s.scaleLookup t v ≠ .error (.hardware code b) := by
  intro h
  unfold State.scaleLookup at h
  dsimp only at h
  split at h
  · exact scalingEntry_not_hardware h
  · split at h
    · exact scalingEntry_not_hardware h
    · rcases bind_error h with h | ⟨_, _, h⟩
      · exact scalingEntry_not_hardware h
      · rcases bind_error h with h | ⟨_, _, h⟩
        · exact scalingEntry_not_hardware h
        · cases h

theorem lut_not_hardware {s : State} {lay : Layout} {p b c i x y : Nat} {code : FaultCode} {a : Word} :
    s.lut lay p b c i x y ≠ .error (.hardware code a) := by
  unfold State.lut
  split <;> simp

theorem sampleGrain_not_hardware {s : State} {lay : Layout} {p X y : Nat} {code : FaultCode} {a : Word} :
    s.sampleGrain lay p X y ≠ .error (.hardware code a) := by
  intro h
  unfold State.sampleGrain State.grainValue at h
  dsimp only at h
  rcases bind_error h with h | ⟨_, _, h⟩
  · exact lut_not_hardware h
  · split at h
    · split at h
      · cases h
      · rcases bind_error h with h | ⟨_, _, h⟩
        · exact lut_not_hardware h
        · cases h
    · split at h
      · rcases bind_error h with h | ⟨_, _, h⟩
        · exact lut_not_hardware h
        · cases h
      · rcases bind_error h with h | ⟨_, _, h⟩
        · exact lut_not_hardware h
        · rcases bind_error h with h | ⟨_, _, h⟩
          · exact lut_not_hardware h
          · rcases bind_error h with h | ⟨_, _, h⟩
            · exact lut_not_hardware h
            · cases h

theorem lumaAverage_hardware {s : State} {lay : Layout} {X y : Nat} {code : FaultCode} {a : Word}
    (h : s.lumaAverage lay X y = .error (.hardware code a)) : code = .busError ∨ code = .sampleRange := by
  unfold State.lumaAverage at h
  rcases bind_error h with h | ⟨_, _, h⟩
  · exact (readSample_hardware h).2
  · split at h
    · rcases bind_error h with h | ⟨_, _, h⟩
      · exact (readSample_hardware h).2
      · cases h
    · cases h

theorem sampleWrite_hardware {s : State} {a b : Word} {v : Int} {code : FaultCode}
    (h : s.sampleWrite a v = .error (.hardware code b)) : code = .busError := by
  rcases sampleWrite_cases s a v with h' | h'
  · rw [h'] at h; cases h
  · rw [h'] at h; cases h; rfl

/-- A luma sample stops in hardware with BUS_ERROR or SAMPLE_RANGE only (43_apply_luma.md R160). -/
theorem lumaSample_hardware {s : State} {X y : Nat} {code : FaultCode} {a : Word}
    (h : s.lumaSample X y = .error (.hardware code a)) : code = .busError ∨ code = .sampleRange := by
  unfold State.lumaSample at h
  rcases bind_error h with h | ⟨_, _, h⟩
  · exact (readSample_hardware h).2
  · rcases bind_error h with h | ⟨_, _, h⟩
    · exact absurd h sampleGrain_not_hardware
    · rcases bind_error h with h | ⟨_, _, h⟩
      · exact absurd h scaleLookup_not_hardware
      · exact Or.inl (sampleWrite_hardware h)

/-- A chroma sample stops in hardware with BUS_ERROR or SAMPLE_RANGE only (44_apply_chroma.md section 3). -/
theorem chromaSample_hardware {s : State} {lay : Layout} {plane : Plane} {isId : Bool} {X y : Nat} {code : FaultCode} {a : Word}
    (h : s.chromaSample lay plane isId X y = .error (.hardware code a)) : code = .busError ∨ code = .sampleRange := by
  unfold State.chromaSample at h
  rcases bind_error h with h | ⟨_, _, h⟩
  · exact (readSample_hardware h).2
  · rcases bind_error h with h | ⟨_, _, h⟩
    · exact lumaAverage_hardware h
    · rcases bind_error h with h | ⟨_, _, h⟩
      · exact absurd h sampleGrain_not_hardware
      · rcases bind_error h with h | ⟨_, _, h⟩
        · unfold State.chromaStrength at h
          split at h <;> exact absurd h scaleLookup_not_hardware
        · exact Or.inl (sampleWrite_hardware h)

/-- A luma sample that goes through is written to its dst address. -/
theorem lumaSample_addr {s : State} {X y : Nat} {w : SampleWrite} (h : s.lumaSample X y = .ok w) : w.addr = s.dstAddr X y := by
  unfold State.lumaSample at h
  obtain ⟨_, _, h⟩ := bind_ok h
  obtain ⟨_, _, h⟩ := bind_ok h
  obtain ⟨_, _, h⟩ := bind_ok h
  dsimp only at h
  unfold State.sampleWrite at h
  split at h
  · cases h; rfl
  · cases h

/-- A chroma sample that goes through is written to its dst address. -/
theorem chromaSample_addr {s : State} {lay : Layout} {plane : Plane} {isId : Bool} {X y : Nat} {w : SampleWrite}
    (h : s.chromaSample lay plane isId X y = .ok w) : w.addr = s.dstAddr X y := by
  unfold State.chromaSample at h
  obtain ⟨_, _, h⟩ := bind_ok h
  obtain ⟨_, _, h⟩ := bind_ok h
  obtain ⟨_, _, h⟩ := bind_ok h
  obtain ⟨_, _, h⟩ := bind_ok h
  dsimp only at h
  unfold State.sampleWrite at h
  split at h
  · cases h; rfl
  · cases h

/-- The dst footprint holds the bytes of every dst sample (20_memory.md R72). -/
theorem mem_dstBytes {s : State} {lay : Layout} (hb : 0 < lay.blockW) {a : Word} :
    a ∈ s.dstBytes lay ↔ ∃ X y, X < s.pw ∧ y < s.bh ∧ a ∈ byteAddrs (s.dstAddr X y) s.frame.cfg.container := by
  simp only [State.dstBytes, List.mem_flatMap, Prod.exists, mem_bandSamples hb]
  constructor
  · rintro ⟨X, y, ⟨hX, hy⟩, h⟩; exact ⟨X, y, hX, hy, h⟩
  · rintro ⟨X, y, hX, hy, h⟩; exact ⟨X, y, ⟨hX, hy⟩, h⟩

/-! One APPLY sample, in the order of its accesses (60_exceptions.md R207) -/

/-- The sample (X, y) of an APPLY command. -/
def State.applySample (s : State) (i : Instr) (X y : Nat) : Except Stop SampleWrite :=
  match i with
  | .applyY => s.lumaSample X y
  | .applyUV420 plane isId => s.chromaSample Layout.l420 plane isId X y
  | .applyUV422 plane isId => s.chromaSample Layout.l422 plane isId X y
  | .applyUV444 plane isId => s.chromaSample Layout.l444 plane isId X y
  | .nop | .prngLoad _ | .prngStep _ | .genScalingY | .genScalingU | .genScalingV => .error (.model .uninitRead)
  | .genGrainY | .genGrainUV420 _ | .genGrainUV422 _ | .genGrainUV444 _ => .error (.model .uninitRead)

/-- An APPLY command is the band of its samples. -/
theorem exec_apply {i : Instr} {s : State} {lay : Layout} {uv : Bool} {p t : Nat} (h : applyForm s i = some (lay, uv, p, t)) :
    exec i s = applyBand (encode i) lay uv (s.applySample i) s := by
  cases i <;> simp only [applyForm, reduceCtorEq, Option.some.injEq, Prod.mk.injEq] at h <;> obtain ⟨rfl, rfl, -, -⟩ := h <;> rfl

theorem applyForm_layout {i : Instr} {s : State} {lay : Layout} {uv : Bool} {p t : Nat}
    (h : applyForm s i = some (lay, uv, p, t)) : lay ∈ [Layout.luma, Layout.l420, Layout.l422, Layout.l444] := by
  cases i <;> simp only [applyForm, reduceCtorEq, Option.some.injEq, Prod.mk.injEq] at h <;> obtain ⟨rfl, -, -, -⟩ := h <;> decide

/-- A grain cell that is not held makes `lut` answer UNINIT_READ. -/
theorem lut_of_not_held {s : State} {lay : Layout} {p b c i x y : Nat} (h : s.lutHeld lay p b c i x y = false) :
    s.lut lay p b c i x y = .error (.model .uninitRead) := by
  unfold State.lutHeld at h
  unfold State.lut
  rcases hg : grainAt s.grain p (lutRow s lay b c i y) (lutCol s lay b c i x) with _ | v
  · rfl
  · rw [hg] at h; cases h

/-- A sample whose grain cells are not all held meets UNINIT_READ (00_scope.md R13). -/
theorem sampleGrain_of_not_held {s : State} {lay : Layout} {p X y : Nat} (h : s.grainHeld lay p X y = false) :
    s.sampleGrain lay p X y = .error (.model .uninitRead) := by
  unfold State.grainHeld at h
  dsimp only at h
  unfold State.sampleGrain State.grainValue
  have hlut : ∀ b c i x y, s.lut lay p b c i x y =
      if s.lutHeld lay p b c i x y then .ok (s.lutValue lay p b c i x y) else .error (.model .uninitRead) := by
    intro b c i x y
    split
    · next h => exact lut_of_held h
    · next h => exact lut_of_not_held (by simpa using h)
  simp only [hlut, bind, Except.bind, pure, Except.pure]
  revert h
  generalize s.lutHeld lay p (X / lay.blockW) 0 0 (X % lay.blockW) y = h00
  generalize s.lutHeld lay p (X / lay.blockW) 0 1 (X % lay.blockW) y = h01
  generalize s.lutHeld lay p (X / lay.blockW) 1 0 (X % lay.blockW) y = h10
  generalize s.lutHeld lay p (X / lay.blockW) 1 1 (X % lay.blockW) y = h11
  by_cases hx : xStart s lay (X / lay.blockW) ≤ X % lay.blockW <;> by_cases hy : yStart s lay ≤ y <;>
    cases h00 <;> cases h01 <;> cases h10 <;> cases h11 <;> simp [hx, hy]

theorem scalingEntry_eq (s : State) (t i : Nat) :
    s.scalingEntry t i = if (scalingAt s.scaling t i).isSome then .ok (s.scalValue t i) else .error (.model .uninitRead) := by
  unfold State.scalingEntry State.scalValue
  cases scalingAt s.scaling t i <;> rfl

/-- What a lookup answers: its strength, or UNINIT_READ where an entry it reads is not held (42_scaling.md R144). -/
theorem scaleLookup_eq (s : State) (t v : Nat) :
    s.scaleLookup t v = if s.lookupHeld t v then .ok (s.strengthResult t v) else .error (.model .uninitRead) := by
  unfold State.scaleLookup State.lookupHeld State.strengthResult
  simp only [scalingEntry_eq, Nat.shiftRight_eq_div_pow, Nat.shiftLeft_eq, bind, Except.bind, pure, Except.pure]
  have hmod : v - v / 2 ^ s.frame.cfg.b8 * 2 ^ s.frame.cfg.b8 = v % 2 ^ s.frame.cfg.b8 := by
    have := Nat.div_add_mod v (2 ^ s.frame.cfg.b8)
    rw [Nat.mul_comm] at this
    omega
  rw [hmod]
  generalize hlo : (scalingAt s.scaling t (v / 2 ^ s.frame.cfg.b8)).isSome = lo
  generalize hhi : (scalingAt s.scaling t (v / 2 ^ s.frame.cfg.b8 + 1)).isSome = hi
  cases hm : s.params.scaleIndexMode
  · cases lo <;> simp
  · by_cases hc : s.frame.cfg.b8 = 0 ∨ v / 2 ^ s.frame.cfg.b8 = 255
    · have hc' : (decide (s.frame.cfg.b8 = 0) || decide (v / 2 ^ s.frame.cfg.b8 = 255)) = true := by simpa using hc
      simp only [if_pos hc, reduceCtorEq, decide_false, Bool.false_or, hc', Bool.true_or, Bool.and_true]
    · have hc' : (decide (s.frame.cfg.b8 = 0) || decide (v / 2 ^ s.frame.cfg.b8 = 255)) = false := by simpa using hc
      simp only [if_neg hc, reduceCtorEq, decide_false, Bool.false_or, hc']
      cases lo <;> cases hi <;> simp

/-- The luma value of a chroma sample whose luma samples are good (44_apply_chroma.md R172). -/
theorem lumaAverage_of_good {s : State} {lay : Layout} {X y : Nat} (h : (s.lumaAddrs lay X y).all s.sampleGood = true) :
    s.lumaAverage lay X y = .ok (s.lumaAverageResult lay X y) := by
  unfold State.lumaAddrs at h
  unfold State.lumaAverage State.lumaAverageResult
  simp only [Nat.shiftLeft_eq, Nat.shiftRight_eq_div_pow] at h ⊢
  split at h
  · next hsx =>
    simp only [List.all_cons, List.all_nil, Bool.and_true, Bool.and_eq_true] at h
    simp only [if_pos hsx, readSample_of_good h.1, readSample_of_good h.2, bind, Except.bind, pure, Except.pure, pow_one]
  · next hsx =>
    simp only [List.all_cons, List.all_nil, Bool.and_true] at h
    simp [hsx, readSample_of_good h, bind, Except.bind, pure, Except.pure]

/-- A sample read, by its two checks (20_memory.md R69). -/
theorem readSample_eq (s : State) (a : Word) :
    s.readSample a =
      if memOk s.params a s.frame.cfg.container .read = true then
        if s.frame.cfg.sampleMax < s.sampleValue a then .error (.hardware .sampleRange a) else .ok (s.sampleValue a)
      else .error (.hardware .busError a) := rfl

/-- At 8 bits a read that the platform answers always goes through, stored or not (20_memory.md R69). -/
theorem sampleGood_of_depth8 {s : State} {a : Word} (hd : s.frame.cfg.bitdepth = 0)
    (hm : memOk s.params a s.frame.cfg.container .read = true) : s.sampleGood a = true := by
  have hc : s.frame.cfg.container = 1 := by simp [Cfg.container, Cfg.bd, hd]
  have hlt := memRead_lt s.mem a 1
  have hmax : s.frame.cfg.sampleMax = 255 := by simp [Cfg.sampleMax, Cfg.bd, hd]
  rw [State.sampleGood, hm, State.sampleValue, hmax, hc, Bool.true_and, decide_eq_true_eq]
  omega

theorem sampleMax_cast (c : Cfg) : ((c.sampleMax : Nat) : Int) = 2 ^ c.bd - 1 := by
  have h : 1 ≤ 2 ^ c.bd := Nat.one_le_two_pow
  rw [Cfg.sampleMax, Nat.cast_sub h]
  push_cast
  rfl

/-- The strength of a chroma sample is a lookup at its intensity key (44_apply_chroma.md R175). -/
theorem chromaStrength_eq (s : State) (lay : Layout) (plane : Plane) (X y : Nat) :
    s.chromaStrength plane (s.lumaAverageResult lay X y) (s.sampleValue (s.srcAddr X y)) =
      s.scaleLookup (s.chromaTable plane) (s.chromaKeyResult lay plane X y) := by
  unfold State.chromaStrength State.chromaTable State.chromaKeyResult
  by_cases h : s.frame.cfg.csfl = true
  · simp [h]
  · simp only [if_neg h, chromaKey, sampleMax_cast, Plane.table, Nat.one_shiftLeft]
    rw [Int.shiftRight_eq_div_pow]
    push_cast
    rfl

theorem lumaRange_eq (c : Cfg) :
    c.lumaRange = if c.clipRestricted then (16 * 2 ^ c.b8, 235 * 2 ^ c.b8) else (0, 2 ^ c.bd - 1) := by
  unfold Cfg.lumaRange
  split <;> simp [sampleMax_cast, Nat.shiftLeft_eq]

theorem chromaRange_eq (c : Cfg) (isId : Bool) :
    c.chromaRange isId =
      if c.clipRestricted then (16 * 2 ^ c.b8, (if isId then 235 else 240) * 2 ^ c.b8) else (0, 2 ^ c.bd - 1) := by
  unfold Cfg.chromaRange
  split <;> cases isId <;> simp [sampleMax_cast, Nat.shiftLeft_eq]

/-- A luma sample whose source sample is good: UNINIT_READ where a cell or entry it reads is not held, else the write of its
result (43_apply_luma.md R155). -/
theorem lumaSample_of_good {s : State} {X y : Nat} (h : s.sampleGood (s.srcAddr X y) = true) :
    s.lumaSample X y =
      if s.grainHeld Layout.luma 0 X y && s.lookupHeld 0 (s.sampleValue (s.srcAddr X y)) then
        s.sampleWrite (s.dstAddr X y) (s.lumaResult X y)
      else .error (.model .uninitRead) := by
  unfold State.lumaSample State.lumaResult
  by_cases hg : s.grainHeld Layout.luma 0 X y = true
  · by_cases hl : s.lookupHeld 0 (s.sampleValue (s.srcAddr X y)) = true
    · simp only [readSample_of_good h, sampleGrain_of_held hg, scaleLookup_eq, hg, hl, lumaRange_eq, bind, Except.bind, Bool.and_self,
        if_true, Shifts.scalingShift]
      split <;> rfl
    · rw [Bool.not_eq_true] at hl
      simp [readSample_of_good h, sampleGrain_of_held hg, scaleLookup_eq, hl, bind, Except.bind]
  · rw [Bool.not_eq_true] at hg
    simp [readSample_of_good h, sampleGrain_of_not_held hg, hg, bind, Except.bind]

/-- The same for a chroma sample (44_apply_chroma.md R176). -/
theorem chromaSample_of_good {s : State} {lay : Layout} {plane : Plane} {isId : Bool} {X y : Nat}
    (h : s.readsGood lay true X y = true) :
    s.chromaSample lay plane isId X y =
      if s.grainHeld lay (1 + Plane.index plane) X y && s.lookupHeld (s.chromaTable plane) (s.chromaKeyResult lay plane X y) then
        s.sampleWrite (s.dstAddr X y) (s.chromaResult lay plane isId X y)
      else .error (.model .uninitRead) := by
  simp only [State.readsGood, State.readAddrs, if_true, List.all_cons, Bool.and_eq_true] at h
  unfold State.chromaSample State.chromaResult
  by_cases hg : s.grainHeld lay (1 + Plane.index plane) X y = true
  · by_cases hl : s.lookupHeld (s.chromaTable plane) (s.chromaKeyResult lay plane X y) = true
    · simp only [readSample_of_good h.1, lumaAverage_of_good h.2, Plane.grainPlane, sampleGrain_of_held hg, chromaStrength_eq,
        scaleLookup_eq, hg, hl, chromaRange_eq, bind, Except.bind, Bool.and_self, if_true, Shifts.scalingShift]
      split <;> rfl
    · rw [Bool.not_eq_true] at hl
      simp [readSample_of_good h.1, lumaAverage_of_good h.2, Plane.grainPlane, sampleGrain_of_held hg, chromaStrength_eq,
        scaleLookup_eq, hl, bind, Except.bind]
  · rw [Bool.not_eq_true] at hg
    simp [readSample_of_good h.1, lumaAverage_of_good h.2, Plane.grainPlane, sampleGrain_of_not_held hg, hg, bind, Except.bind]

/-- What an APPLY sample does once its reads are good. -/
theorem applySample_of_good {i : Instr} {s : State} {lay : Layout} {uv : Bool} {p t X y : Nat}
    (hf : applyForm s i = some (lay, uv, p, t)) (h : s.readsGood lay uv X y = true) :
    s.applySample i X y =
      if s.grainHeld lay p X y && s.lookupHeld t (s.lookupKey X y i) then s.sampleWrite (s.dstAddr X y) (s.applyResult X y i)
      else .error (.model .uninitRead) := by
  cases i <;> simp only [applyForm, reduceCtorEq, Option.some.injEq, Prod.mk.injEq] at hf <;> obtain ⟨rfl, rfl, rfl, rfl⟩ := hf
  · simp only [State.readsGood, State.readAddrs, List.all_cons, Bool.and_eq_true] at h
    exact lumaSample_of_good h.1
  all_goals exact chromaSample_of_good h

/-- A source read that stops, stops the sample: it comes first. -/
theorem applySample_src_error {i : Instr} {s : State} {lay : Layout} {uv : Bool} {p t X y : Nat} {e : Stop}
    (hf : applyForm s i = some (lay, uv, p, t)) (h : s.readSample (s.srcAddr X y) = .error e) :
    s.applySample i X y = .error e := by
  cases i <;> simp only [applyForm, reduceCtorEq] at hf <;>
    simp only [State.applySample, State.lumaSample, State.chromaSample, h, bind, Except.bind]

/-- A luma read that stops comes next. -/
theorem applySample_luma_error {i : Instr} {s : State} {lay : Layout} {p t X y : Nat} {e : Stop}
    (hf : applyForm s i = some (lay, true, p, t)) (hs : s.sampleGood (s.srcAddr X y) = true)
    (h : s.lumaAverage lay X y = .error e) : s.applySample i X y = .error e := by
  cases i <;> simp only [applyForm, reduceCtorEq, Option.some.injEq, Prod.mk.injEq, Bool.false_eq_true, false_and, and_false] at hf <;>
    obtain ⟨rfl, -, -, -⟩ := hf <;>
    simp only [State.applySample, State.chromaSample, readSample_of_good hs, h, bind, Except.bind]

theorem lumaAverage_first_error {s : State} {lay : Layout} {X y : Nat} {e : Stop}
    (h : s.readSample (s.lumaAddr (X * 2 ^ lay.sx) (y * 2 ^ lay.sy)) = .error e) : s.lumaAverage lay X y = .error e := by
  simp only [State.lumaAverage, Nat.shiftLeft_eq, h, bind, Except.bind]

theorem lumaAverage_second_error {s : State} {lay : Layout} {X y : Nat} {e : Stop} (hsx : lay.sx = 1)
    (hs : s.sampleGood (s.lumaAddr (X * 2 ^ lay.sx) (y * 2 ^ lay.sy)) = true)
    (h : s.readSample (s.lumaAddr (X * 2 ^ lay.sx + 1) (y * 2 ^ lay.sy)) = .error e) : s.lumaAverage lay X y = .error e := by
  simp only [State.lumaAverage, Nat.shiftLeft_eq, readSample_of_good hs, if_pos hsx, h, bind, Except.bind]

/-- At a good position the sample is its result, to be written to its dst address. -/
theorem applySample_of_positionGood {i : Instr} {s : State} {X y : Nat} (h : s.positionGood i X y = true) :
    s.applySample i X y = .ok { addr := s.dstAddr X y, value := (s.applyResult X y i).toNat } := by
  unfold State.positionGood at h
  rcases hf : applyForm s i with _ | ⟨lay, uv, p, t⟩
  · rw [hf] at h; cases h
  · rw [hf] at h
    simp only [Bool.and_eq_true] at h
    obtain ⟨⟨⟨h1, h2⟩, h3⟩, h4⟩ := h
    rw [applySample_of_good hf h1, h2, h3]
    simp only [Bool.and_self, if_true, State.sampleWrite, if_pos h4]

/-! The canonical order (60_exceptions.md R207) -/

/-- A range, split at one number. -/
theorem range_split {n k : Nat} (hk : k < n) :
    List.range n = List.range k ++ k :: (List.range (n - k - 1)).map (fun j => k + 1 + j) := by
  have hn : n = k + 1 + (n - k - 1) := by omega
  conv_lhs => rw [hn, List.range_add, List.range_succ]
  simp

/-- The positions of the rows of a block. -/
theorem mem_rows {lay : Layout} {w b h : Nat} {c : Nat × Nat} :
    c ∈ (List.range h).flatMap (fun y => (List.range w).map (fun x => (b * lay.blockW + x, y))) ↔
      ∃ y < h, ∃ x < w, c = (b * lay.blockW + x, y) := by
  simp only [List.mem_flatMap, List.mem_range, List.mem_map]
  constructor
  · rintro ⟨y, hy, x, hx, rfl⟩; exact ⟨y, hy, x, hx, rfl⟩
  · rintro ⟨y, hy, x, hx, rfl⟩; exact ⟨y, hy, x, hx, rfl⟩

theorem block_of {b x w : Nat} (hx : x < w) : (b * w + x) / w = b := by
  rw [Nat.mul_comm, Nat.mul_add_div (by omega), Nat.div_eq_of_lt hx, Nat.add_zero]

/-- A position splits the band: those before it come earlier. -/
theorem bandSamples_split {lay : Layout} (hb : 0 < lay.blockW) {pw bh X y : Nat} (hX : X < pw) (hy : y < bh) :
    ∃ before after, bandSamples lay pw bh = before ++ (X, y) :: after ∧
      ∀ c ∈ before, c.1 < pw ∧ c.2 < bh ∧ earlier lay c.1 c.2 X y := by
  have hdm := Nat.div_add_mod X lay.blockW
  have hm := Nat.mod_lt X hb
  rw [Nat.mul_comm] at hdm
  have hblk : X / lay.blockW < (pw + lay.blockW - 1) / lay.blockW := by
    rw [Nat.div_lt_iff_lt_mul hb]
    have h3 := Nat.div_add_mod (pw + lay.blockW - 1) lay.blockW
    have h4 := Nat.mod_lt (pw + lay.blockW - 1) hb
    rw [Nat.mul_comm]
    omega
  have hcol : X % lay.blockW < blockWidth lay pw (X / lay.blockW) := by unfold blockWidth; omega
  have hrow := congrArg (List.map (fun x => (X / lay.blockW * lay.blockW + x, y))) (range_split hcol)
  rw [List.map_append, List.map_cons, hdm] at hrow
  obtain ⟨after, hafter⟩ : ∃ after, bandSamples lay pw bh =
      ((List.range (X / lay.blockW)).flatMap (fun b => (List.range bh).flatMap (fun y' =>
        (List.range (blockWidth lay pw b)).map (fun x => (b * lay.blockW + x, y')))) ++
      ((List.range y).flatMap (fun y' => (List.range (blockWidth lay pw (X / lay.blockW))).map
        (fun x => (X / lay.blockW * lay.blockW + x, y'))) ++
      (List.range (X % lay.blockW)).map (fun x => (X / lay.blockW * lay.blockW + x, y)))) ++ (X, y) :: after := by
    unfold bandSamples
    conv =>
      enter [1, after, 1]
      rw [range_split hblk, List.flatMap_append, List.flatMap_cons]
      enter [2, 1]
      rw [range_split hy, List.flatMap_append, List.flatMap_cons, hrow]
    simp only [List.append_assoc, List.cons_append, List.append_cancel_left_eq, List.cons.injEq, true_and]
    exact ⟨_, rfl⟩
  refine ⟨_, after, hafter, ?_⟩
  · intro c hc
    rcases List.mem_append.mp hc with hc | hc
    · obtain ⟨b, hbX, hc⟩ := List.mem_flatMap.mp hc
      have hbX := List.mem_range.mp hbX
      obtain ⟨y', hy', x, hx, rfl⟩ := mem_rows.mp hc
      unfold blockWidth at hx
      exact ⟨by dsimp only; omega, hy', Or.inl (by rw [block_of (by omega)]; exact hbX)⟩
    · rcases List.mem_append.mp hc with hc | hc
      · obtain ⟨y', hy', x, hx, rfl⟩ := mem_rows.mp hc
        unfold blockWidth at hx
        exact ⟨by dsimp only; omega, by dsimp only; omega, Or.inr ⟨block_of (by omega), Or.inl hy'⟩⟩
      · obtain ⟨x, hx, rfl⟩ := List.mem_map.mp hc
        have hx := List.mem_range.mp hx
        exact ⟨by dsimp only; omega, hy, Or.inr ⟨block_of (by omega), Or.inr ⟨rfl, by dsimp only; omega⟩⟩⟩

/-! How an APPLY command ends -/

/-- An admitted APPLY command ends as its first position that stops says (60_exceptions.md R207). -/
theorem exec_apply_first_stop {i : Instr} {s : State} {lay : Layout} {uv : Bool} {p t X y : Nat} {e : Stop}
    (hf : applyForm s i = some (lay, uv, p, t)) (ha : s.bandAdmitted lay uv = true) (hX : X < s.pw) (hy : y < s.bh)
    (hfirst : ∀ X' y', X' < s.pw → y' < s.bh → earlier lay X' y' X y → s.positionGood i X' y' = true)
    (he : s.applySample i X y = .error e) : exec i s = finishBand (encode i) lay s (.error e) := by
  obtain ⟨before, after, hband, hbefore⟩ := bandSamples_split (Layout.blockW_pos (applyForm_layout hf)) hX hy
  rw [exec_apply hf, applyBand_of_admitted ha, hband, collectSamples_first_error ?_ he]
  intro d hd
  obtain ⟨h1, h2, h3⟩ := hbefore d hd
  exact ⟨_, applySample_of_positionGood (hfirst d.1 d.2 h1 h2 h3)⟩

/-- An APPLY command that nothing stops writes the results of its positions in canonical order. -/
theorem exec_apply_of_ready {i : Instr} {s : State} {lay : Layout} {uv : Bool} {p t : Nat}
    (hf : applyForm s i = some (lay, uv, p, t)) (h : s.bandReady i = true) :
    exec i s = .next (s.setMem (writeSamples s.frame.cfg.container
      ((bandSamples lay s.pw s.bh).map (fun c => { addr := s.dstAddr c.1 c.2, value := (s.applyResult c.1 c.2 i).toNat }))
      s.mem)).complete := by
  unfold State.bandReady at h
  rw [hf] at h
  simp only [Bool.and_eq_true, List.all_eq_true, List.mem_range] at h
  rw [exec_apply hf, applyBand_of_admitted h.1, collectSamples_ok (value := fun X y =>
    { addr := s.dstAddr X y, value := (s.applyResult X y i).toNat })]
  · rfl
  · intro c hc
    obtain ⟨hX, hy⟩ := (mem_bandSamples (Layout.blockW_pos (applyForm_layout hf))).mp hc
    exact applySample_of_positionGood (h.2 c.1 hX c.2 hy)

/-- A hardware stop of an APPLY command is recorded; only sample memory and the free values change besides. -/
theorem finishBand_hardware (w : Word) (lay : Layout) (s : State) (code : FaultCode) (a : Word) :
    ∃ u, finishBand w lay s (.error (.hardware code a)) = .next u ∧
      u = { (s.afterFault code w a) with mem := u.mem, drawn := u.drawn } :=
  ⟨_, rfl, by rw [State.raise_eq]; rfl⟩

end Sys2Proof.Machine
end

