-- ==== Sys2Proof/Laws/PerInstr.lean ====
section
/-!
SUPPORT. Statements about every command as syntax. Family Fixed: the word of a well-formed command carries the fixed bits of
its row of 30_encoding.md R98.
-/

namespace Sys2Proof.Laws.Fixed

/-- The value and the mask of a command's row (30_encoding.md R98). -/
def row : Instr → Word × Word
  | .nop => (0x00000000, 0xFFFFFFFF)
  | .prngLoad _ => (0x00000001, 0x0000FFFF)
  | .prngStep _ => (0x00000002, 0xFFFFF0FF)
  | .genGrainY => (0x00000010, 0xFFFFFFFF)
  | .genGrainUV420 _ => (0x00000111, 0xFFFFFBFF)
  | .genGrainUV422 _ => (0x00000211, 0xFFFFFBFF)
  | .genGrainUV444 _ => (0x00000311, 0xFFFFFBFF)
  | .genScalingY => (0x00000020, 0xFFFFFFFF)
  | .genScalingU => (0x00000120, 0xFFFFFFFF)
  | .genScalingV => (0x00000220, 0xFFFFFFFF)
  | .applyY => (0x00000030, 0xFFFFFFFF)
  | .applyUV420 _ _ => (0x00000131, 0xFFFFF3FF)
  | .applyUV422 _ _ => (0x00000231, 0xFFFFF3FF)
  | .applyUV444 _ _ => (0x00000331, 0xFFFFF3FF)

/-- The word of `i`, under its row's mask, is its row's value. -/
def Statement (i : Instr) : Prop := i.wellFormed = true → encode i &&& (row i).2 = (row i).1

theorem nop : Statement .nop := fun _ => by decide

theorem prngLoad (imm16 : BitVec 16) : Statement (.prngLoad imm16) := fun _ => by
  show (imm16 ++ 0x0001#16) &&& 0x0000FFFF#32 = 0x00000001#32
  rw [show (0x0000FFFF#32 : Word) = 0#16 ++ 0xFFFF#16 from by decide, show (0x00000001#32 : Word) = 0#16 ++ 0x0001#16 from by decide,
    BitVec.and_append, BitVec.and_zero]
  rfl

theorem prngStep (n : Nat) : Statement (.prngStep n) := fun h => by
  simp only [Instr.wellFormed, Bool.and_eq_true, decide_eq_true_eq] at h
  obtain ⟨h1, h2⟩ := h
  have all : ∀ m < 17, 1 ≤ m → encode (.prngStep m) &&& 0xFFFFF0FF = 0x00000002 := by decide
  exact all n (by omega) h1

theorem genGrainY : Statement .genGrainY := fun _ => by decide

theorem genGrainUV420 (plane : Plane) : Statement (.genGrainUV420 plane) := fun _ => by cases plane <;> decide

theorem genGrainUV422 (plane : Plane) : Statement (.genGrainUV422 plane) := fun _ => by cases plane <;> decide

theorem genGrainUV444 (plane : Plane) : Statement (.genGrainUV444 plane) := fun _ => by cases plane <;> decide

theorem genScalingY : Statement .genScalingY := fun _ => by decide

theorem genScalingU : Statement .genScalingU := fun _ => by decide

theorem genScalingV : Statement .genScalingV := fun _ => by decide

theorem applyY : Statement .applyY := fun _ => by decide

theorem applyUV420 (plane : Plane) (isId : Bool) : Statement (.applyUV420 plane isId) := fun _ => by
  cases plane <;> cases isId <;> decide

theorem applyUV422 (plane : Plane) (isId : Bool) : Statement (.applyUV422 plane isId) := fun _ => by
  cases plane <;> cases isId <;> decide

theorem applyUV444 (plane : Plane) (isId : Bool) : Statement (.applyUV444 plane isId) := fun _ => by
  cases plane <;> cases isId <;> decide

end Sys2Proof.Laws.Fixed
end

