-- ==== Sys2Proof/Laws/Scaling.lean ====
section
/-!
SUPPORT. The laws of scaling-table synthesis: the cells of a table, and what a GEN_SCALING command can do.
-/

namespace Sys2Proof.Machine

theorem tableCells_rising (t : Nat) (pts : List Point) : Cells.Rising (tableCells t pts) := by
  unfold Cells.Rising tableCells
  rw [List.pairwise_map]
  exact List.pairwise_lt_range.imp (fun h => by unfold scalingIndex; dsimp only; omega)

theorem mem_tableCells {t k : Nat} {pts : List Point} {v : BitVec 8} :
    (k, v) ∈ tableCells t pts ↔ ∃ e < 256, k = scalingIndex t e ∧ v = BitVec.ofInt 8 (scalingValue pts e) := by
  simp only [tableCells, List.mem_map, List.mem_range, Prod.mk.injEq]
  constructor
  · rintro ⟨e, he, rfl, rfl⟩; exact ⟨e, he, rfl, rfl⟩
  · rintro ⟨e, he, rfl, rfl⟩; exact ⟨e, he, rfl, rfl⟩

theorem tableCells_wf {t : Nat} (ht : t < 3) (pts : List Point) : Cells.wf scalingCells (tableCells t pts) = true := by
  rw [Cells.wf_iff]
  refine ⟨tableCells_rising t pts, fun c hc => ?_⟩
  obtain ⟨e, he, hk, -⟩ := mem_tableCells.mp (show (c.1, c.2) ∈ tableCells t pts from hc)
  unfold scalingIndex at hk
  unfold scalingCells
  omega

/-- Entry `e` of a stored table. -/
theorem get_overlay_table {t e : Nat} (he : e < 256) (pts : List Point) (old : Cells 8) :
    Cells.get (Cells.overlay (tableCells t pts) old) (scalingIndex t e) = some (BitVec.ofInt 8 (scalingValue pts e)) := by
  rw [Cells.get_overlay (tableCells_rising t pts),
    Cells.get_of_mem (tableCells_rising t pts) (mem_tableCells.mpr ⟨e, he, rfl, rfl⟩)]
  rfl

/-- A stored table leaves the entries of the other tables alone. -/
theorem get_overlay_table_of_outside {t k : Nat} (hk : k < t * 256 ∨ t * 256 + 256 ≤ k) (pts : List Point) (old : Cells 8) :
    Cells.get (Cells.overlay (tableCells t pts) old) k = Cells.get old k := by
  rw [Cells.get_overlay (tableCells_rising t pts), Cells.get_eq_none, Option.none_or]
  intro c hc hck
  obtain ⟨e, he, h, -⟩ := mem_tableCells.mp (show (c.1, c.2) ∈ tableCells t pts from hc)
  unfold scalingIndex at h
  omega

/-- What a GEN_SCALING command can do: it builds its table or records BAD_PARAM (42_scaling.md R141, R143). -/
theorem genScaling_eq (w : Word) (t n nmax : Nat) (pts : List Point) (s : State) :
    genScaling w t n nmax pts s =
      if pointsLegal n nmax pts then .next (s.setScaling (Cells.overlay (tableCells t pts) s.scaling)).afterCompletion
      else .next (s.afterFault .badParam w 0) := by
  unfold genScaling
  rw [State.raise_eq]
  rfl

/-- The x values of a list of points rise strictly exactly when each is below the next (42_scaling.md R141). -/
theorem pointsRise_iff (pts : List Point) :
    pointsRise pts = true ↔ ∀ (i : Nat) (p q : Point), pts[i]? = some p → pts[i + 1]? = some q → p.x < q.x := by
  induction pts with
  | nil => simp [pointsRise]
  | cons a rest ih =>
    cases rest with
    | nil => simp [pointsRise]
    | cons b rest =>
      simp only [pointsRise, Bool.and_eq_true, decide_eq_true_eq, ih]
      constructor
      · rintro ⟨h0, h⟩ i p q hp hq
        cases i with
        | zero =>
          simp only [List.getElem?_cons_zero, List.getElem?_cons_succ, Option.some.injEq] at hp hq
          subst hp; subst hq; exact h0
        | succ i => exact h i p q (by simpa using hp) (by simpa using hq)
      · intro h
        exact ⟨h 0 a b rfl rfl, fun i p q hp hq => h (i + 1) p q (by simpa using hp) (by simpa using hq)⟩

theorem pointsOf_getElem? {m n i : Nat} (bank : Vector Word m) :
    (pointsOf bank n)[i]? = if i < n then some (pointOf bank i) else none := by
  unfold pointsOf
  split
  · next h => simp [h]
  · next h => simp [h]

end Sys2Proof.Machine
end

