-- ==== Sys2Proof/Laws/Step.lean ====
section
/-!
SUPPORT. The laws of one move: which move a step takes, what the engine's step can be, and what reset and a store of another
bus master can do.
-/

namespace Sys2Proof.Machine

theorem step_of_event {s : State} {e : Event} {rest : List Event} (h : s.events = e :: rest) :
    step s = takeEvent e (s.setEvents rest) := by
  unfold step nextMove; rw [h]

theorem step_of_no_event {s : State} (h : s.events = []) : step s = engineStep s := by
  unfold step nextMove; rw [h]

theorem engineStep_idle {s : State} (h : s.command = none) : engineStep s = .next s := by
  unfold engineStep; rw [h]

theorem engineStep_command {s : State} {w : Word} {i : Instr} (h : s.command = some w) (hw : decode w = .ok i) :
    engineStep s = exec i s := by
  simp only [engineStep, h, hw]

theorem engineStep_illegal {s : State} {w : Word} {e : DecodeError} (h : s.command = some w) (hw : decode w = .error e) :
    engineStep s = .next (s.afterFault .illegalCmd w 0) := by
  simp only [engineStep, h, hw, State.raise_eq]

/-- What the engine's step can be. -/
theorem engineStep_cases {s t : State} (h : engineStep s = .next t) :
    (s.command = none ∧ t = s) ∨ (∃ w e, s.command = some w ∧ decode w = .error e ∧ t = s.afterFault .illegalCmd w 0) ∨
      (∃ w i, s.command = some w ∧ decode w = .ok i ∧ exec i s = .next t) := by
  rcases hc : s.command with _ | w
  · rw [engineStep_idle hc] at h
    exact Or.inl ⟨rfl, (Host.Outcome.next.inj h).symm⟩
  · rcases hw : decode w with e | i
    · rw [engineStep_illegal hc hw] at h
      exact Or.inr (Or.inl ⟨w, e, rfl, hw, (Host.Outcome.next.inj h).symm⟩)
    · rw [engineStep_command hc hw] at h
      exact Or.inr (Or.inr ⟨w, i, rfl, hw, h⟩)

/-- What a step can be: the engine's step when no move waits, else the oldest waiting move. -/
theorem step_cases {s t : State} (h : step s = .next t) :
    (s.events = [] ∧ engineStep s = .next t) ∨ (∃ e rest, s.events = e :: rest ∧ takeEvent e (s.setEvents rest) = .next t) := by
  rcases he : s.events with _ | ⟨e, rest⟩
  · rw [step_of_no_event he] at h
    exact Or.inl ⟨rfl, h⟩
  · rw [step_of_event he] at h
    exact Or.inr ⟨e, rest, rfl, h⟩

/-- What reset leaves: the reset values everywhere, and sample memory but for an abandoned dst footprint
(70_reset_and_hazards.md R230, R231). -/
theorem resetBlock_eq (s : State) :
    resetBlock s = { State.reset with mem := (resetBlock s).mem, events := s.events, drawn := (resetBlock s).drawn,
                                      params := s.params } := by
  unfold resetBlock
  split <;> rfl

theorem resetBlock_mem_of_none {s : State} (h : s.runningApply = none) : (resetBlock s).mem = s.mem := by
  simp only [resetBlock, h]; rfl

theorem resetBlock_mem_of_some {s : State} {lay : Layout} {uv : Bool} (h : s.runningApply = some (lay, uv)) :
    (resetBlock s).mem = (s.unspecify (s.dstBytes lay)).mem := by
  simp only [resetBlock, h]; rfl

theorem Memory.wf_resetBlock {s : State} (h : Memory.wf s.mem = true) : Memory.wf (resetBlock s).mem = true := by
  rcases hr : s.runningApply with _ | ⟨lay, uv⟩
  · rw [resetBlock_mem_of_none hr]; exact h
  · rw [resetBlock_mem_of_some hr]; exact Memory.wf_unspecify h _

/-- What a store of another bus master can do (70_reset_and_hazards.md R240). -/
theorem storeSample_next {a : Word} {v : Byte} {s t : State} (h : storeSample a v s = .next t) :
    t = s.setMem (setByte s.mem a v) := by
  unfold storeSample at h
  split at h
  · exact (Host.Outcome.next.inj h).symm
  · split at h
    · cases h
    · exact (Host.Outcome.next.inj h).symm

end Sys2Proof.Machine
end

