-- ==== Sys2Proof/Laws/Window.lean ====
section
/-!
SUPPORT. The laws of the register window: where a slot stands, what a read or a write can do, and that a write keeps the
canonical form of the RAMs.
-/

namespace Sys2Proof.Machine

/-- A RAM slot carries the number of a cell that exists (10_state.md R23, R40, R41). -/
theorem slotOf_bounds (o : BitVec 18) :
    (∀ i, slotOf o = .grain i → i < grainCells) ∧ (∀ i, slotOf o = .scaling i → i < scalingCells) := by
  unfold slotOf
  split
  · next r hr =>
    have hmem := List.mem_of_find?_eq_some hr
    simp only [registerSlots, List.mem_cons, List.not_mem_nil, or_false] at hmem
    rcases hmem with rfl | rfl | rfl | rfl | rfl | rfl | rfl | rfl | rfl | rfl | rfl | rfl | rfl | rfl | rfl | rfl | rfl |
      rfl | rfl | rfl | rfl <;> simp
  · split
    · next a ha =>
      have hmem := List.mem_of_find?_eq_some ha
      have hrange := List.find?_some ha
      simp only [Bool.and_eq_true, decide_eq_true_eq] at hrange
      simp only [arraySlots, List.mem_cons, List.not_mem_nil, or_false] at hmem
      rcases hmem with rfl | rfl | rfl | rfl | rfl | rfl | rfl | rfl <;>
        simp only [grainCells, scalingCells, reduceCtorEq, false_implies, implies_true, and_self, Slot.grain.injEq,
          Slot.scaling.injEq, true_and, and_true] at hrange ⊢ <;> (intro i hi; omega)
    · simp

/-- A single register stands at its offset (10_state.md R23). -/
theorem slotOf_register : ∀ r ∈ registerSlots, slotOf (BitVec.ofNat 18 r.1) = r.2 := by decide +kernel

/-- The slot of an offset that is not a single register's. -/
theorem slotOf_of_not_register {o : BitVec 18} (h : ∀ r ∈ registerSlots, r.1 ≠ o.toNat) :
    slotOf o =
      match arraySlots.find? (fun a => decide (a.1 ≤ o.toNat) && decide (o.toNat < a.1 + 4 * a.2.1)) with
      | some a => a.2.2 ((o.toNat - a.1) / 4)
      | none => .reserved := by
  have hn : registerSlots.find? (fun r => r.1 == o.toNat) = none := by
    rw [List.find?_eq_none]
    intro r hr
    simpa using h r hr
  simp only [slotOf, hn] <;> rfl

/-- Offsets from 0x060 on are no single register's (10_state.md R23). -/
theorem not_register_of_le {n : Nat} (h : 0x060 ≤ n) : ∀ r ∈ registerSlots, r.1 ≠ n := by
  have hall : ∀ r ∈ registerSlots, r.1 < 0x060 := by decide
  intro r hr
  have := hall r hr
  omega

/-- Word `i` of a bank or RAM window stands at its place (10_state.md R23, R37, R38, R40, R41). -/
theorem slotOf_array {o : BitVec 18} {i : Nat} :
    (o.toNat = 0x100 + 4 * i → i < 6 → slotOf o = .arY i) ∧ (o.toNat = 0x120 + 4 * i → i < 8 → slotOf o = .arU i) ∧
      (o.toNat = 0x140 + 4 * i → i < 8 → slotOf o = .arV i) ∧ (o.toNat = 0x180 + 4 * i → i < 7 → slotOf o = .yPoints i) ∧
      (o.toNat = 0x1A0 + 4 * i → i < 5 → slotOf o = .uPoints i) ∧ (o.toNat = 0x1C0 + 4 * i → i < 5 → slotOf o = .vPoints i) ∧
      (o.toNat = 0x10000 + 4 * i → i < grainCells → slotOf o = .grain i) ∧
      (o.toNat = 0x30000 + 4 * i → i < scalingCells → slotOf o = .scaling i) := by
  refine ⟨?_, ?_, ?_, ?_, ?_, ?_, ?_, ?_⟩ <;>
  · intro ho hi
    rw [slotOf_of_not_register (not_register_of_le (by omega))]
    simp only [arraySlots, List.find?_cons, List.find?_nil, grainCells, scalingCells] at hi ⊢
    repeat' (first | rw [decide_eq_true (by omega)] | rw [decide_eq_false (by omega)])
    simp only [Bool.and_true, Bool.and_false]
    congr 1
    omega

/-- The offsets of the window that 10_state.md R23 does not list (20_memory.md R63). -/
theorem slotOf_reserved {o : BitVec 18} (ho : o.toNat % 4 = 0)
    (h : 0x034 ≤ o.toNat ∧ o.toNat < 0x040 ∨ 0x060 ≤ o.toNat ∧ o.toNat < 0x100 ∨ 0x118 ≤ o.toNat ∧ o.toNat < 0x120 ∨
      0x160 ≤ o.toNat ∧ o.toNat < 0x180 ∨ 0x19C ≤ o.toNat ∧ o.toNat < 0x1A0 ∨ 0x1B4 ≤ o.toNat ∧ o.toNat < 0x1C0 ∨
      0x1D4 ≤ o.toNat ∧ o.toNat < 0x10000 ∨ 0x21C70 ≤ o.toNat ∧ o.toNat < 0x30000 ∨ 0x30C00 ≤ o.toNat) :
    slotOf o = .reserved := by
  rw [slotOf_of_not_register]
  · have hn : arraySlots.find? (fun a => decide (a.1 ≤ o.toNat) && decide (o.toNat < a.1 + 4 * a.2.1)) = none := by
      rw [List.find?_eq_none]
      intro a ha
      simp only [arraySlots, List.mem_cons, List.not_mem_nil, or_false] at ha
      simp only [Bool.and_eq_true, decide_eq_true_eq, not_and, not_lt]
      rcases ha with rfl | rfl | rfl | rfl | rfl | rfl | rfl | rfl <;> simp only [grainCells, scalingCells] <;> omega
    rw [hn]
  · have hall : ∀ r ∈ registerSlots, r.1 < 0x034 ∨ 0x040 ≤ r.1 ∧ r.1 < 0x060 := by decide
    intro r hr
    have := hall r hr
    omega

/-- CTRL and STATUS stand at one offset each (10_state.md R23). -/
theorem slotOf_ctrl_or_status {o : BitVec 18} (h : slotOf o = .ctrl ∨ slotOf o = .status) : o = 0x000 ∨ o = 0x004 := by
  by_cases hr : ∀ r ∈ registerSlots, r.1 ≠ o.toNat
  · rw [slotOf_of_not_register hr] at h
    split at h
    · next a ha =>
      have hmem := List.mem_of_find?_eq_some ha
      simp only [arraySlots, List.mem_cons, List.not_mem_nil, or_false] at hmem
      rcases hmem with rfl | rfl | rfl | rfl | rfl | rfl | rfl | rfl <;> simp at h
    · simp at h
  · push Not at hr
    obtain ⟨r, hr, ho⟩ := hr
    have ho' : o = BitVec.ofNat 18 r.1 := by rw [ho, BitVec.ofNat_toNat, BitVec.setWidth_eq]
    have hall : ∀ r ∈ registerSlots, (r.2 = .ctrl ∨ r.2 = .status) → BitVec.ofNat 18 r.1 = 0x000 ∨ BitVec.ofNat 18 r.1 = 0x004 := by
      decide
    rw [ho', slotOf_register r hr] at h
    rw [ho']
    exact hall r hr h

theorem accessLegal_iff {bits : Nat} {o : BitVec 18} : accessLegal bits o = true ↔ bits = 32 ∧ o.toNat % 4 = 0 := by
  simp [accessLegal]

/-- Only CTRL and STATUS are written while BUSY = 1 (60_exceptions.md R206). -/
theorem writableWhileBusy_iff (sl : Slot) : sl.writableWhileBusy = true ↔ sl = .ctrl ∨ sl = .status := by
  cases sl <;> simp [Slot.writableWhileBusy]

/-- A read changes only the bus answer and the model's counter (20_memory.md R64). -/
theorem hostRead_eq (bits : Nat) (o : BitVec 18) (s : State) :
    hostRead bits o s = { s with response := (hostRead bits o s).response, drawn := (hostRead bits o s).drawn } := by
  unfold hostRead
  split
  · rfl
  · split
    · rfl
    · split <;> rfl

/-- What a write can do: a bus error, a recorded BUSY_WRITE, or the write of its slot (20_memory.md R61, 60_exceptions.md R206). -/
theorem hostWrite_cases (bits : Nat) (o : BitVec 18) (v : Word) (s : State) :
    (accessLegal bits o = false ∧ hostWrite bits o v s = s.respond .busError) ∨
      (s.status.busy = true ∧ (slotOf o).writableWhileBusy = false ∧
        hostWrite bits o v s = (s.recordFault .busyWrite ((o.setWidth 16).setWidth 32) 0).respond .written) ∨
      ((s.status.busy = true → slotOf o = .ctrl ∨ slotOf o = .status) ∧
        hostWrite bits o v s = (writeSlot s v (slotOf o)).respond .written) := by
  rcases hl : accessLegal bits o with _ | _
  · exact Or.inl ⟨rfl, by simp [hostWrite, hl]⟩
  · rcases hb : s.status.busy with _ | _
    · exact Or.inr (Or.inr ⟨by simp, by simp [hostWrite, hl, hb]⟩)
    · rcases hw : (slotOf o).writableWhileBusy with _ | _
      · exact Or.inr (Or.inl ⟨rfl, rfl, by simp [hostWrite, hl, hb, hw]⟩)
      · exact Or.inr (Or.inr ⟨fun _ => (writableWhileBusy_iff _).mp hw, by simp [hostWrite, hl, hw]⟩)

/-- An access of another width or alignment (20_memory.md R61). -/
theorem host_access_illegal {bits : Nat} {o : BitVec 18} (h : accessLegal bits o = false) (v : Word) (s : State) :
    hostWrite bits o v s = s.respond .busError ∧ hostRead bits o s = s.respond .busError := by
  simp [hostWrite, hostRead, h]

/-- A write that is not dropped. -/
theorem hostWrite_taken {o : BitVec 18} {s : State} (ho : o.toNat % 4 = 0)
    (h : s.status.busy = false ∨ slotOf o = .ctrl ∨ slotOf o = .status) (v : Word) :
    hostWrite 32 o v s = (writeSlot s v (slotOf o)).respond .written := by
  have hl : accessLegal 32 o = true := accessLegal_iff.mpr ⟨rfl, ho⟩
  rcases h with h | h
  · simp [hostWrite, hl, h]
  · have hw := (writableWhileBusy_iff _).mpr h
    simp [hostWrite, hl, hw]

/-- A write that is dropped while BUSY = 1 (60_exceptions.md R206). -/
theorem hostWrite_dropped {o : BitVec 18} {s : State} (ho : o.toNat % 4 = 0) (hb : s.status.busy = true)
    (h0 : o ≠ 0x000) (h4 : o ≠ 0x004) (v : Word) :
    hostWrite 32 o v s = (s.recordFault .busyWrite ((o.setWidth 16).setWidth 32) 0).respond .written := by
  have hl : accessLegal 32 o = true := accessLegal_iff.mpr ⟨rfl, ho⟩
  have hw : (slotOf o).writableWhileBusy = false := by
    rcases hw : (slotOf o).writableWhileBusy with _ | _
    · rfl
    · rcases slotOf_ctrl_or_status ((writableWhileBusy_iff _).mp hw) with h | h
      · exact absurd h h0
      · exact absurd h h4
  simp [hostWrite, hl, hb, hw]

/-- A read of a slot that holds a value. -/
theorem hostRead_value {o : BitVec 18} {s : State} {v : Word} (ho : o.toNat % 4 = 0)
    (h : s.status.busy = false ∨ (slotOf o).readableWhileBusy = true) (hv : readSlot s (slotOf o) = some v) :
    hostRead 32 o s = s.respond (.data v) := by
  have hl : accessLegal 32 o = true := accessLegal_iff.mpr ⟨rfl, ho⟩
  rcases h with h | h <;> simp [hostRead, hl, h, hv]

/-- A well-formed read answers some word. -/
theorem hostRead_data {o : BitVec 18} (ho : o.toNat % 4 = 0) (s : State) : ∃ v, (hostRead 32 o s).response = .data v := by
  have hl : accessLegal 32 o = true := accessLegal_iff.mpr ⟨rfl, ho⟩
  unfold hostRead
  rw [hl]
  simp only [Bool.not_true, Bool.false_eq_true, if_false]
  split
  · exact ⟨_, rfl⟩
  · split <;> exact ⟨_, rfl⟩

/-- A write to STATUS, field by field (10_state.md R25). -/
theorem State.writeStatus_eq (s : State) (v : Word) :
    s.writeStatus v =
      { s with
        status := { busy := s.status.busy,
                    done := if v.getLsbD 1 then false else s.status.done,
                    fault := if v.getLsbD 2 then false else s.status.fault,
                    faultCode := if v.getLsbD 2 then .none else s.status.faultCode },
        faultInfo := if v.getLsbD 2 then 0 else s.faultInfo,
        faultAddr := if v.getLsbD 2 then 0 else s.faultAddr } := by
  unfold State.writeStatus
  rcases v.getLsbD 1 with _ | _ <;> rcases v.getLsbD 2 with _ | _ <;> rfl

/-- A write leaves sample memory, the waiting moves and the platform alone, and the RAMs in canonical form. -/
theorem writeSlot_keeps (s : State) (v : Word) (sl : Slot) :
    (writeSlot s v sl).mem = s.mem ∧ (writeSlot s v sl).events = s.events ∧ (writeSlot s v sl).params = s.params ∧
      (Cells.wf grainCells s.grain = true → (∀ i, sl = .grain i → i < grainCells) →
        Cells.wf grainCells (writeSlot s v sl).grain = true) ∧
      (Cells.wf scalingCells s.scaling = true → (∀ i, sl = .scaling i → i < scalingCells) →
        Cells.wf scalingCells (writeSlot s v sl).scaling = true) := by
  cases sl with
  | grain i => exact ⟨rfl, rfl, rfl, fun h hi => Cells.wf_set _ (hi i rfl) h, fun h _ => h⟩
  | scaling i => exact ⟨rfl, rfl, rfl, fun h _ => h, fun h hi => Cells.wf_set _ (hi i rfl) h⟩
  | status =>
    simp only [writeSlot, State.writeStatus_eq]
    exact ⟨trivial, trivial, trivial, fun h _ => h, fun h _ => h⟩
  | cmd =>
    simp only [writeSlot, State.issue]
    split <;> exact ⟨rfl, rfl, rfl, fun h _ => h, fun h _ => h⟩
  | _ => exact ⟨rfl, rfl, rfl, fun h _ => h, fun h _ => h⟩

end Sys2Proof.Machine
end

