-- ==== Sys2Proof/Tests/Slice0.lean ====
section
/-!
SUPPORT. The model's own tests: well-formedness, every command's decoding, each command's step on spec/95_test_vectors.md, and
for every statement with hypotheses a state that meets them together.
-/

namespace Sys2Proof.Tests

set_option Elab.async false

open Sys2Proof Sys2Proof.Machine

/-! Helpers -/

/-- GAUSS_TEST of 95_test_vectors.md: 2i - 2048. -/
def gaussTest : Vector (BitVec 12) 2048 :=
  ⟨((List.range 2048).map (fun i : Nat => BitVec.ofInt 12 (2 * (i : Int) - 2048))).toArray, by rw [List.size_toArray, List.length_map, List.length_range]⟩

def testParams : Params :=
  { gauss := gaussTest, scaleIndexMode := .shift, blend := Config.defaultBlend, busHoles := [], devices := [], base := 0x80000000 }

/-- The block after reset on a platform without holes or devices. -/
def idle : State := { State.reset with params := testParams }

/-- The next state meets `f`. -/
def goesTo (o : Host.Outcome State Fault Refusal) (f : State → Bool) : Bool :=
  match o with
  | .next t => f t
  | _ => false

def isNext (o : Host.Outcome State Fault Refusal) : Bool := goesTo o (fun _ => true)

theorem exists_of_isNext {o : Host.Outcome State Fault Refusal} (h : isNext o = true) : ∃ t, o = .next t := by
  cases o with
  | next t => exact ⟨t, rfl⟩
  | fault f => cases h
  | refused r => cases h

/-- The machine stops with fault `f`. -/
def stopsWith (o : Host.Outcome State Fault Refusal) (f : Fault) : Bool :=
  match o with
  | .fault g => f == g
  | _ => false

/-- The engine's step on the accepted word `w`. -/
def run (s : State) (w : Nat) : Host.Outcome State Fault Refusal := step (s.withFetchWord 32 w)

/-- Bytes from address `a` on. -/
def bytesFrom (a : Nat) (bs : List Nat) : Memory := bs.zipIdx.map (fun b => (a + b.2, BitVec.ofNat 8 b.1))

/-- The pattern TG of 95_test_vectors.md. -/
def tg (r c : Nat) : BitVec 16 := BitVec.ofInt 16 ((((13 * r + 7 * c) % 61 : Nat) : Int) - 30)

/-- The cells of TG in rows r, r + 1, ... and columns c, c + 1, ... of plane `p`. -/
def tgWindow (p r c h w : Nat) : Cells 16 :=
  (List.range h).flatMap (fun i => (List.range w).map (fun j => (grainIndex p (r + i) (c + j), tg (r + i) (c + j))))

/-- The identity in all three scaling tables. -/
@[irreducible] def identityTables : Cells 8 := (List.range 768).map (fun k => (k, BitVec.ofNat 8 k))

/-- Bytes read back. -/
def bytesAre (s : State) (a : Nat) (bs : List Nat) : Bool :=
  bs.zipIdx.all (fun b => byteAt s.mem (BitVec.ofNat 32 (a + b.2)) == some (BitVec.ofNat 8 b.1))

/-- `idle` with a job, SEED = 0x1234 and the identity tables. -/
def band (width : BitVec 16) (height : BitVec 6) (stride : Word) (grain : Cells 16) (mem : Memory) : State :=
  { idle with
    frame := { FrameRegs.reset with seed := 0x1234 }
    job := { dstAddr := 0x2000, srcAddr := 0x1000, stride := stride, width := width, height := height, rowNum := 0,
             lumaAddr := 0x3000, lumaStride := 4 }
    grain := grain, scaling := identityTables, mem := mem }

/-- `s` with another CFG. -/
def withCfg (s : State) (cfg : Cfg) : State := { s with frame := { s.frame with cfg := cfg } }

def withNumPoints (s : State) (v : Nat) : State :=
  { s with frame := { s.frame with numPoints := NumPoints.ofWord (BitVec.ofNat 32 v) } }

/-! Well-formedness -/

theorem test_wellFormed_refuses_width_0 : (Instr.prngStep 0).wellFormed = false := by decide

theorem test_wellFormed_refuses_width_17 : (Instr.prngStep 17).wellFormed = false := by decide

theorem test_wellFormed_accepts_widths : (Instr.prngStep 1).wellFormed = true ∧ (Instr.prngStep 16).wellFormed = true := by decide

/-! Decoding: words written out from 30_encoding.md R92 to R98, fields from the left -/

theorem test_decode_nop : decodeTableWord 32 0b0000000000000000_00000000_00000000 = some .nop := by decide

theorem test_decode_prngLoad : decodeTableWord 32 0b1010110011100001_00000000_00000001 = some (.prngLoad 0xACE1) := by decide

theorem test_decode_prngStep : decodeTableWord 32 0b00000000000000000000_1010_00000010 = some (.prngStep 11) := by decide

theorem test_decode_genGrainY : decodeTableWord 32 0b0000000000000000_00000000_00010000 = some .genGrainY := by decide

theorem test_decode_genGrainUV420 : decodeTableWord 32 0b000000000000000000000_1_01_00010001 = some (.genGrainUV420 .v) := by decide

theorem test_decode_genGrainUV422 : decodeTableWord 32 0b000000000000000000000_0_10_00010001 = some (.genGrainUV422 .u) := by decide

theorem test_decode_genGrainUV444 : decodeTableWord 32 0b000000000000000000000_1_11_00010001 = some (.genGrainUV444 .v) := by decide

theorem test_decode_genScalingY : decodeTableWord 32 0b0000000000000000000000_00_00100000 = some .genScalingY := by decide

theorem test_decode_genScalingU : decodeTableWord 32 0b0000000000000000000000_01_00100000 = some .genScalingU := by decide

theorem test_decode_genScalingV : decodeTableWord 32 0b0000000000000000000000_10_00100000 = some .genScalingV := by decide

theorem test_decode_applyY : decodeTableWord 32 0b0000000000000000_00000000_00110000 = some .applyY := by decide

theorem test_decode_applyUV420 : decodeTableWord 32 0b00000000000000000000_1_0_01_00110001 = some (.applyUV420 .u true) := by decide

theorem test_decode_applyUV422 : decodeTableWord 32 0b00000000000000000000_0_1_10_00110001 = some (.applyUV422 .v false) := by decide

theorem test_decode_applyUV444 : decodeTableWord 32 0b00000000000000000000_1_1_11_00110001 = some (.applyUV444 .v true) := by decide

/-- The illegal words of 95_test_vectors.md section 2.6, by reason. -/
theorem test_decode_illegal :
    decode 0xACE10101 = .error .reservedBits ∧ decode 0x0000F002 = .error .reservedBits ∧
    decode 0x00000011 = .error .layoutZero ∧ decode 0x00000320 = .error .tableThree ∧
    decode 0x00000130 = .error .reservedBits ∧ decode 0x00001131 = .error .reservedBits ∧
    decode 0x00000003 = .error .unassignedOpcode ∧ decode 0xFFFFFFFF = .error .unassignedOpcode ∧
    decodeBytes [0x10, 0x00, 0x00] = .error .truncated := by decide

/-- Right after reset, every row of the opcode table runs. -/
theorem test_first_steps :
    [0x00000000, 0xACE10001, 0x00000A02, 0x00000010, 0x00000111, 0x00000211, 0x00000311, 0x00000020, 0x00000120, 0x00000220,
     0x00000030, 0x00000131, 0x00000231, 0x00000331].all (fun w => isNext (step (State.reset.withFetchWord 32 w))) = true := by
  decide +kernel

/-! Control, generator (95_test_vectors.md 2.1, 2.7, P1) -/

theorem test_nop_completes : goesTo (run idle 0x00000000) (fun t => t.status.word == 0x2 && t.command.isNone) = true := by
  decide +kernel

theorem test_prngLoad : goesTo (run idle 0xFFFF0001) (fun t => t.prngState == 0xFFFF && t.prngOut == 0) = true := by decide +kernel

theorem test_prngStep_11 :
    goesTo (run (idle.setPrng 0xACE1) 0x00000A02) (fun t => t.prngOut == 1715 && t.prngState == 0xD670) = true := by decide +kernel

theorem test_prngStep_1 : goesTo (run (idle.setPrng 0xACE1) 0x00000002) (fun t => t.prngOut == 1) = true := by decide +kernel

/-! Grain tables (95_test_vectors.md 2.2) -/

def seeded : State := { idle with frame := { FrameRegs.reset with seed := 0x1234 } }

theorem test_genGrainY_first_row :
    (fillRow testParams 4 4 0x1234).1 = [9, -59, -94, 17] ∧ (fillRow testParams 2 3 0x1234).1 = [36, -238, -375] := by
  decide +kernel

/-- Lag 1 with AR_Y = 1, -2, 3, -4: cell (3, 3) is 106. -/
theorem test_genGrainY_ar :
    arValue { seeded.frame with shifts := Shifts.ofWord 0x1000 } (coefficient (Vector.replicate 6 (0xFC03FE01 : Word)))
      (fun _ _ => 0) (fillGrid testParams 4 82 4 0x1234).1 3 3 = 106 := by decide +kernel

theorem test_genGrainUV420_first_row : (fillRow testParams 4 3 (chromaSeed 0x1234 .u)).1 = [-44, -86, -107] := by decide +kernel

/-- The luma tap of chroma cell (3, 3) averages 115, 122, -120 and 4 to 30. -/
theorem test_genGrainUV420_tap :
    lumaTapAverage [(grainIndex 0 3 3, 115), (grainIndex 0 3 4, 122), (grainIndex 0 4 3, BitVec.ofInt 16 (-120)), (grainIndex 0 4 4, 4)]
      Layout.l420 3 3 = 30 := by decide +kernel

theorem test_genGrainUV422_taps : lumaTapCells Layout.l422 4 5 = [(4, 7), (4, 8)] := by decide

theorem test_genGrainUV444_first_row : (fillRow testParams 4 3 (chromaSeed 0x1234 .v)).1 = [-82, 23, -53] := by decide +kernel

/-- The generator states after 5986 and 1672 draws. -/
theorem test_genGrain_final_states : lfsrAfter 5986 0x1234 = 0x9B61 ∧ lfsrAfter 1672 0xA710 = 0xB6CE := by decide +kernel

theorem test_genGrain_needs_luma : stopsWith (run (withNumPoints seeded 2) 0x00000111) .uninitRead = true := by decide +kernel

/-! Scaling tables (95_test_vectors.md 2.3) -/

def entriesAre (s : State) (t : Nat) (es : List (Nat × Int)) : Bool := es.all (fun e => scalingAt s.scaling t e.1 == some e.2)

def withYPoints (s : State) (v : Word) : State := { s with frame := { s.frame with yPoints := s.frame.yPoints.set 0 v } }

theorem test_genScalingY :
    goesTo (run (withYPoints (withNumPoints idle 2) 0xFF800000) 0x00000020)
      (fun t => entriesAre t 0 [(0, 0), (1, 2), (2, 4), (63, 126), (64, 128), (65, 129), (127, 253), (128, 255), (255, 255)]) = true := by
  decide +kernel

theorem test_genScalingY_bad_points :
    goesTo (run (withYPoints (withNumPoints idle 2) 0x0A0A140A) 0x00000020)
      (fun t => t.status.word == 0x204 && t.faultInfo == 0x20 && t.scaling == []) = true := by decide +kernel

theorem test_genScalingU :
    goesTo (run (withNumPoints { idle with frame := { idle.frame with uPoints := idle.frame.uPoints.set 0 0xDCFF1400 } } 0x200) 0x00000120)
      (fun t => entriesAre t 1 [(0, 20), (100, 98), (128, 120), (255, 220)]) = true := by decide +kernel

theorem test_genScalingV :
    goesTo (run (withNumPoints { idle with frame := { idle.frame with
        vPoints := (idle.frame.vPoints.set 0 0x0A402810).set 1 0x0000C8C8 } } 0x30000) 0x00000220)
      (fun t => entriesAre t 2 [(0, 40), (16, 40), (17, 39), (40, 25), (63, 11), (64, 10), (65, 11), (100, 60), (199, 199), (200, 200)]) = true := by
  decide +kernel

/-! Overlay (95_test_vectors.md 2.4, 2.5, P2, P4) -/

def lumaBand : State := band 4 2 4 (tgWindow 0 9 19 2 4) (bytesFrom 0x1000 [0, 50, 128, 255, 16, 235, 100, 200])

/-- Vector A. -/
theorem test_applyY :
    goesTo (run lumaBand 0x00000030)
      (fun t => bytesAre t 0x2000 [0, 47, 123, 252, 15, 231, 101, 208] && t.status.word == 2 && t.prngState == 0) = true := by
  decide +kernel

/-- Vector B with WIDTH = 33 and HEIGHT = 1: both strips and the corner. -/
def overlapBand : State :=
  let s := band 33 1 64 (tgWindow 0 11 39 1 1 ++ tgWindow 0 13 37 1 33 ++ tgWindow 0 41 19 1 33 ++ tgWindow 0 57 29 1 1)
    (bytesFrom 0x1000 ((List.range 33).map (fun x => 11 * x)))
  withCfg { s with job := { s.job with rowNum := 1 } } (Cfg.ofWord 0x10)

theorem test_applyY_overlap :
    goesTo (run overlapBand 0x00000030)
      (fun t => bytesAre t 0x2000 [0, 9, 20] && bytesAre t 0x2005 [56] && bytesAre t 0x2020 [102]) = true := by decide +kernel

def lumaBytes420 : Memory := bytesFrom 0x3000 [10, 20, 30, 40, 200, 210, 220, 230, 200, 210, 220, 230]

/-- The inputs of 95_test_vectors.md 2.5, with the table from (0,20), (255,220) in Scal[1]. -/
def chromaBand (lay : Layout) (mem : Memory) : State :=
  let s := band 2 2 2 (tgWindow 1 (offsetY lay 80) (offsetX lay 80) 2 2) (bytesFrom 0x1000 [100, 150, 50, 250] ++ mem)
  { s with
    frame := { s.frame with uvU := UvReg.ofWord 0x01F62020 }
    scaling := tableCells 1 [⟨0, 20⟩, ⟨255, 220⟩] }

theorem test_applyUV420 :
    goesTo (run (chromaBand Layout.l420 lumaBytes420) 0x00000131) (fun t => bytesAre t 0x2000 [101, 153, 57, 255]) = true := by
  decide +kernel

theorem test_applyUV422 :
    goesTo (run (chromaBand Layout.l422 lumaBytes420) 0x00000231) (fun t => bytesAre t 0x2000 [96, 146, 47, 251]) = true := by
  decide +kernel

theorem test_applyUV444 :
    goesTo (run (chromaBand Layout.l444 (bytesFrom 0x3000 [10, 20, 0, 0, 200, 210])) 0x00000331)
      (fun t => bytesAre t 0x2000 [95, 145, 45, 247]) = true := by decide +kernel

/-- IS_ID lets chroma reach 235 only (CLIP_RESTRICTED = 1). -/
theorem test_applyUV420_isId :
    goesTo (run (withCfg { chromaBand Layout.l420 lumaBytes420 with mem := bytesFrom 0x1000 [250, 245, 10, 239] ++ lumaBytes420 }
        (Cfg.ofWord 0x20)) 0x00000931)
      (fun t => bytesAre t 0x2000 [235, 235, 16, 235]) = true := by decide +kernel

/-- A 10-bit sample above 1023 at 0x1002 is SAMPLE_RANGE there. -/
def rangeBand : State :=
  withCfg (band 2 1 4 (tgWindow 0 9 19 1 2) (bytesFrom 0x1000 [0x00, 0x01, 0x00, 0x04])) (Cfg.ofWord 0x1)

theorem test_applyY_sample_range :
    goesTo (run rangeBand 0x00000030)
      (fun t => t.status.word == 0x404 && t.faultInfo == 0x30 && t.faultAddr == 0x1002 && t.command.isNone) = true := by
  decide +kernel

/-! The window (95_test_vectors.md 2.6) -/

def writing (s : State) (o : Nat) (v : Word) : State := { s with events := [.write 32 (BitVec.ofNat 18 o) v] }

def writingThenReading (s : State) (o : Nat) (v : Word) : State :=
  { s with events := [.write 32 (BitVec.ofNat 18 o) v, .read 32 (BitVec.ofNat 18 o)] }

theorem test_window_packing :
    goesTo (step (writing idle 0x014 0xFFFFFFFF)) (fun t => t.frame.cfg.word == 0x00000073) = true ∧
    goesTo (step (writing idle 0x024 0x0100FF80))
      (fun t => t.frame.uvU.mult.toInt == -128 && t.frame.uvU.lumaMult.toInt == -1 && t.frame.uvU.offset.toInt == -256) = true ∧
    goesTo (step (writing idle 0x166AC 3)) (fun t => grainAt t.grain 1 6 11 == some 3) = true ∧
    goesTo (step (writing idle 0x304BC 0x1FF)) (fun t => scalingAt t.scaling 1 47 == some 255) = true := by decide +kernel

/-- A WIDTH write while BUSY is dropped and reported. -/
theorem test_busy_write :
    goesTo (step (writing (idle.accept 0x30) 0x04C 5))
      (fun t => t.job.width == 0 && t.status.word == 0x605 && t.faultInfo == 0x4C && t.command == some 0x30) = true := by
  decide +kernel

/-- CLRST after a fault. -/
theorem test_clrst :
    goesTo (step (writing { idle with status := { idle.status with fault := true, faultCode := .illegalCmd }, faultInfo := 3 } 0x004 6))
      (fun t => t.status.word == 0 && t.faultInfo == 0) = true := by decide +kernel

/-! Witnesses: states that meet the hypotheses of a statement together -/

theorem witness_EncodedCommandsDecodeToThemselves :
    (Instr.prngStep 1).wellFormed = true ∧ (Instr.prngStep 16).wellFormed = true ∧ (Instr.applyUV444 .v true).wellFormed = true := by
  decide

theorem witness_DecodedWordsAreTheirEncodings : decode 0x00000F31 = .ok (.applyUV444 .v true) := by decide

theorem witness_OpcodeMapIsTheSpecsAndDisjoint : ∃ r ∈ opcodeRows, 0xFFFF0001 &&& r.mask = r.value := by decide

theorem witness_DecodeFollowsTheOpcodeMap :
    (0xFFFF0001 &&& 0x0000FFFF : Word) = 0x00000001 ∧ (0x00000F02 &&& 0xFFFFF0FF : Word) = 0x00000002 ∧
    (0x00000511 &&& 0xFFFFFBFF : Word) = 0x00000111 ∧ (0x00000611 &&& 0xFFFFFBFF : Word) = 0x00000211 ∧
    (0x00000711 &&& 0xFFFFFBFF : Word) = 0x00000311 ∧ (0x00000D31 &&& 0xFFFFF3FF : Word) = 0x00000131 ∧
    (0x00000E31 &&& 0xFFFFF3FF : Word) = 0x00000231 ∧ (0x00000F31 &&& 0xFFFFF3FF : Word) = 0x00000331 ∧
    (∀ r ∈ opcodeRows, (0x00000003 : Word) &&& r.mask ≠ r.value) := by decide

/-- Each case of 30_encoding.md R100, at the lowest bit it names. -/
theorem witness_ReservedEncodingsAreIllegal :
    [0x00000003, 0x00000011, 0x00000031, 0x00000320, 0x00000100, 0x00000110, 0x00000400, 0x00000420, 0x00000101, 0x00001002,
     0x00000911, 0x00001131].all (fun w => match decode w with | .ok _ => false | .error _ => true) = true := by decide

def withEvents (s : State) (es : List Event) : State := { s with events := es }

def faulted : State := { idle with status := { idle.status with fault := true, faultCode := .badParam }, faultInfo := 0x10 }

theorem witness_StepExecutesTheDecodedCommand :
    (idle.accept 0x00000A02).command = some 0x00000A02 ∧ decode 0x00000A02 = .ok (.prngStep 11) ∧
    (idle.accept 0x00000A02).events = [] ∧ (idle.withCommand 0x00000A02).events = .engine :: [] ∧
    (idle.withCommand 0x00000A02).command = some 0x00000A02 := by decide +kernel

theorem witness_IllegalWordsRaiseIllegalCmd :
    (idle.withCommand 0x00000003).events = .engine :: [] ∧ (idle.withCommand 0x00000003).command = some 0x00000003 ∧
    decode 0x00000003 = .error .unassignedOpcode := by decide +kernel

theorem witness_CmdWriteIssuesDropsOrRefuses :
    (∃ s : State, s.events = .write 32 0x008 0 :: [] ∧ s.status.busy = true ∧ s.status.fault = true) ∧
    (∃ s : State, s.events = .write 32 0x008 0 :: [] ∧ s.status.busy = true ∧ s.status.fault = false) ∧
    (∃ s : State, s.events = .write 32 0x008 0 :: [] ∧ s.status.busy = false ∧ s.status.fault = true) ∧
    (∃ s : State, s.events = .write 32 0x008 0 :: [] ∧ s.status.busy = false ∧ s.status.fault = false) :=
  ⟨⟨withEvents (faulted.accept 0) [.write 32 0x008 0], rfl, rfl, rfl⟩, ⟨withEvents (idle.accept 0) [.write 32 0x008 0], rfl, rfl, rfl⟩,
   ⟨withEvents faulted [.write 32 0x008 0], rfl, rfl, rfl⟩, ⟨withEvents idle [.write 32 0x008 0], rfl, rfl, rfl⟩⟩

theorem witness_EveryCommandEndsCompletedOrFaulted :
    (∃ t, exec .nop idle = .next t) ∧ faulted.status.fault = true ∧
    (∃ t, exec .genGrainY (withCfg faulted (Cfg.ofWord 3)) = .next t) :=
  ⟨exists_of_isNext (by decide +kernel), rfl, exists_of_isNext (by decide +kernel)⟩

theorem witness_IllegalDepthRaisesBadParam :
    readsDepth (.applyUV422 .v true) = true ∧ readsDepth (.genGrainUV444 .u) = true ∧
    (withCfg idle (Cfg.ofWord 3)).frame.cfg.bitdepth = 3 := by decide +kernel

theorem witness_NopCompletesWithoutEffect :
    (0x00000100 : Word).toNat % 256 = 0 ∧ (0x00000100 : Word) ≠ 0 ∧ (idle.withCommand 0x00000100).events = .engine :: [] ∧
    (idle.withCommand 0x00000100).command = some 0x00000100 := by decide +kernel

theorem witness_PrngLoadSetsTheGeneratorState :
    (0xFFFF0001 : Word).toNat % 256 = 1 ∧ (0xFFFF0001 : Word).toNat / 256 % 256 = 0 ∧ (0xFFFF0101 : Word).toNat % 256 = 1 ∧
    (0xFFFF0101 : Word).toNat / 256 % 256 ≠ 0 ∧ (idle.withCommand 0xFFFF0101).events = .engine :: [] ∧
    (idle.withCommand 0xFFFF0101).command = some 0xFFFF0101 := by decide +kernel

theorem witness_PrngStepDrawsTheTopBits :
    (0x00000F02 : Word).toNat % 256 = 2 ∧ (0x00000F02 : Word).toNat / 4096 = 0 ∧ (0x00001002 : Word).toNat % 256 = 2 ∧
    (0x00001002 : Word).toNat / 4096 ≠ 0 ∧ (idle.withCommand 0x00001002).events = .engine :: [] ∧
    (idle.withCommand 0x00001002).command = some 0x00001002 := by decide +kernel

theorem witness_GenGrainYFillsPlaneZero : seeded.frame.cfg.bitdepth ≠ 3 := by decide +kernel

theorem luma_completes : ∃ t, exec .genGrainY seeded = .next t := exists_of_isNext (by decide +kernel)

theorem witness_LumaBorderCellsKeepTheirDraw :
    seeded.frame.cfg.bitdepth ≠ 3 ∧ (∃ t, exec .genGrainY seeded = .next t) ∧ ((72 : Nat) < 73 ∧ (79 : Nat) < 82 ∧ (79 : Nat) ≤ 79) :=
  ⟨by decide +kernel, luma_completes, by decide⟩

theorem witness_LumaGrainObeysTheArRecurrence :
    seeded.frame.cfg.bitdepth ≠ 3 ∧ (∃ t, exec .genGrainY seeded = .next t) ∧ ((3 : Nat) ≤ 72 ∧ (72 : Nat) < 73 ∧ (3 : Nat) ≤ 78 ∧ (78 : Nat) < 79) :=
  ⟨by decide +kernel, luma_completes, by decide⟩

theorem witness_LumaGrainIsBounded :
    seeded.frame.cfg.bitdepth ≠ 3 ∧ (∃ t, exec .genGrainY seeded = .next t) ∧ ((0 : Nat) < 73 ∧ (81 : Nat) < 82 ∧ (79 : Nat) ≤ 81) :=
  ⟨by decide +kernel, luma_completes, by decide⟩

/-- A storage whose first `m` cells hold values reads them. -/
theorem get_range {n m k : Nat} (v : Nat → BitVec n) (hk : k < m) :
    Cells.get ((List.range m).map (fun j => (j, v j))) k = some (v k) := by
  refine Cells.get_of_mem ?_ (List.mem_map.mpr ⟨k, List.mem_range.mpr hk, rfl⟩)
  unfold Cells.Rising
  rw [List.pairwise_map]
  exact List.pairwise_lt_range

/-- Every cell of grain plane 0 holds 5. -/
@[irreducible] def lumaCells : Cells 16 := (List.range 6068).map (fun k => (k, 5))

/-- `seeded` with NUM_Y = 2 and a luma table. -/
def lumaDone : State := { withNumPoints seeded 2 with grain := lumaCells }

theorem lumaDone_at {r c : Nat} (hr : r < 74) (hc : c < 82) : grainAt lumaDone.grain 0 r c = some 5 := by
  have h : Cells.get lumaCells (grainIndex 0 r c) = some 5 := by
    unfold lumaCells
    exact get_range (fun _ => 5) (by unfold grainIndex; omega)
  rw [grainAt, show lumaDone.grain = lumaCells from rfl, h]
  rfl

theorem lumaDone_held : lumaDone.lumaGrainHeld = true := by
  simp only [State.lumaGrainHeld, List.all_eq_true, List.mem_range]
  intro r hr c hc
  rw [lumaDone_at (by omega) (by omega)]
  rfl

theorem chroma_completes : ∃ t, exec (.genGrainUV420 .u) lumaDone = .next t := by
  have hheld : lumaHeld lumaDone Layout.l420 = true := by
    simp only [lumaHeld, List.all_eq_true]
    rintro ⟨y, x⟩ hc ⟨r, c⟩ hl
    obtain ⟨-, h2, -, h4⟩ := mem_arRegion.mp hc
    have hlay : Layout.l420.gridH = 38 ∧ Layout.l420.gridW = 44 := by decide
    rw [hlay.1] at h2
    rw [hlay.2] at h4
    simp only [lumaTapCells, List.mem_flatMap, List.mem_map, List.mem_range, Layout.l420, Prod.mk.injEq, Nat.shiftLeft_eq] at hl
    obtain ⟨i, hi, j, hj, rfl, rfl⟩ := hl
    rw [lumaDone_at (by dsimp only; omega) (by dsimp only; omega)]
    rfl
  have hdepth : lumaDone.frame.cfg.depthIllegal = false := by decide +kernel
  have h : exec (.genGrainUV420 .u) lumaDone = .next (lumaDone.storeGrid 1 (chromaGrid lumaDone Layout.l420 .u)).complete := by
    show genGrainUV (encode (.genGrainUV420 .u)) Layout.l420 .u lumaDone = _
    unfold genGrainUV
    rw [hdepth, hheld, if_neg (by simp), if_neg (by simp)]
    rfl
  exact ⟨_, h⟩

theorem witness_GenGrainUVFillsItsPlane :
    grainForm (.genGrainUV420 .u) = some (Layout.l420, .u) ∧ lumaDone.frame.cfg.bitdepth ≠ 3 ∧ lumaDone.lumaGrainHeld = true ∧
    seeded.frame.cfg.bitdepth ≠ 3 ∧ seeded.frame.numPoints.numY = 0 :=
  ⟨rfl, by decide +kernel, lumaDone_held, by decide +kernel, rfl⟩

theorem witness_ChromaGrainObeysTheArRecurrence :
    (grainForm (.genGrainUV420 .u) = some (Layout.l420, .u) ∧ lumaDone.frame.cfg.bitdepth ≠ 3 ∧
      ∃ t, exec (.genGrainUV420 .u) lumaDone = .next t) ∧
    (grainForm (.genGrainUV444 .v) = some (Layout.l444, .v) ∧ seeded.frame.cfg.bitdepth ≠ 3 ∧
      ∃ t, exec (.genGrainUV444 .v) seeded = .next t) :=
  ⟨⟨rfl, by decide +kernel, chroma_completes⟩, ⟨rfl, by decide +kernel, exists_of_isNext (by decide +kernel)⟩⟩

theorem witness_GenGrainUVNeedsTheLumaTable :
    grainForm (.genGrainUV422 .v) = some (Layout.l422, .v) ∧ (withNumPoints seeded 2).frame.cfg.bitdepth ≠ 3 ∧
    (withNumPoints seeded 2).frame.numPoints.numY ≠ 0 ∧ (withNumPoints seeded 2).lumaGrainHeld = false := by decide +kernel

/-- Fourteen luma points (16 + 16k, 10k), three V points. -/
def pointed : State :=
  withNumPoints
    { idle with
      frame := { idle.frame with
        yPoints := Vector.ofFn (fun i : Fin 7 => BitVec.ofNat 32 (16 + 32 * i.val + 256 * (20 * i.val) + 65536 * (32 + 32 * i.val) + 16777216 * (20 * i.val + 10)))
        vPoints := (idle.frame.vPoints.set 0 0x0A402810).set 1 0x0000C8C8 } }
    0x3000E

theorem witness_GenScalingBuildsItsTable :
    scalingForm pointed .genScalingY = some (0, 14, 14, pointOf pointed.frame.yPoints) ∧
    pointsValid 14 14 (pointOf pointed.frame.yPoints) = true ∧
    scalingForm pointed .genScalingV = some (2, 3, 10, pointOf pointed.frame.vPoints) ∧
    pointsValid 3 10 (pointOf pointed.frame.vPoints) = true ∧ 0 < (pointOf pointed.frame.vPoints 0).x ∧
    (pointOf pointed.frame.vPoints 2).x ≤ 255 ∧ 0 < (pointOf pointed.frame.vPoints 2).x - (pointOf pointed.frame.vPoints 1).x :=
  ⟨rfl, by decide +kernel, rfl, by decide +kernel, by decide +kernel, by decide +kernel, by decide +kernel⟩

theorem witness_GenScalingRejectsBadPoints :
    scalingForm idle .genScalingU = some (1, 0, 10, pointOf idle.frame.uPoints) ∧
    scalingForm (withNumPoints idle 0xF) .genScalingY = some (0, 15, 14, pointOf idle.frame.yPoints) ∧
    scalingForm (withNumPoints idle 0xA0000) .genScalingV = some (2, 10, 10, pointOf idle.frame.vPoints) ∧
    (pointOf idle.frame.vPoints (8 + 1)).x ≤ (pointOf idle.frame.vPoints 8).x :=
  ⟨rfl, rfl, rfl, by decide +kernel⟩

theorem witness_ScalingEntriesLieBetweenTheirStrengths :
    scalingForm pointed .genScalingV = some (2, 3, 10, pointOf pointed.frame.vPoints) ∧
    pointsValid 3 10 (pointOf pointed.frame.vPoints) = true ∧ (∃ t, exec .genScalingV pointed = .next t) ∧
    (pointOf pointed.frame.vPoints 1).x ≤ 64 ∧ 199 < (pointOf pointed.frame.vPoints 2).x :=
  ⟨rfl, by decide +kernel, exists_of_isNext (by decide +kernel), by decide +kernel, by decide +kernel⟩

/-- Addresses that differ over the bounded positions differ for all of them. -/
theorem distinct_of {s : State} {w h : Nat} (hw : s.pw = w) (hh : s.bh = h)
    (hd : (List.range w).all (fun X => (List.range h).all (fun y => (List.range w).all (fun X' => (List.range h).all (fun y' =>
      s.dstAddr X y != s.dstAddr X' y' || (X == X' && y == y'))))) = true) : s.dstDistinct := by
  intro X y X' y' hX hy hX' hy' he
  rw [hw] at hX hX'
  rw [hh] at hy hy'
  simp only [List.all_eq_true, List.mem_range, Bool.or_eq_true, bne_iff_ne, ne_eq, Bool.and_eq_true, beq_iff_eq] at hd
  exact (hd X hX y hy X' hX' y' hy').resolve_left (fun hne => hne he)

theorem lumaBand_ready : lumaBand.bandReady .applyY = true := by decide +kernel

theorem lumaBand_distinct : lumaBand.dstDistinct := distinct_of (w := 4) (h := 2) rfl rfl (by decide +kernel)

theorem lumaBand_completes : ∃ u, exec .applyY lumaBand = .next u := exists_of_isNext (by decide +kernel)

theorem witness_CommandsWriteOnlyTheirOutputs :
    (∃ t, exec .applyY lumaBand = .next t) ∧ writesGrain .applyY = false ∧ writesScaling .applyY = false ∧
    writesPrng .applyY = false ∧ (∀ n, Instr.applyY ≠ .prngStep n) ∧ (∃ t, exec .genScalingY idle = .next t) ∧
    applyForm idle .genScalingY = none :=
  ⟨lumaBand_completes, rfl, rfl, rfl, by simp, exists_of_isNext (by decide +kernel), rfl⟩

theorem witness_ApplyYAddsScaledGrain :
    lumaBand.bandReady .applyY = true ∧ lumaBand.dstDistinct ∧ overlapBand.bandReady .applyY = true :=
  ⟨lumaBand_ready, lumaBand_distinct, by decide +kernel⟩

def band420 : State := chromaBand Layout.l420 lumaBytes420

def band422 : State := chromaBand Layout.l422 lumaBytes420

def band444 : State := chromaBand Layout.l444 lumaBytes420

theorem witness_ApplyUVAddsScaledGrain :
    band420.bandReady (.applyUV420 .u false) = true ∧ band420.dstDistinct ∧
    band422.bandReady (.applyUV422 .u false) = true ∧ band422.dstDistinct ∧
    band444.bandReady (.applyUV444 .u false) = true ∧ band444.dstDistinct :=
  ⟨by decide +kernel, distinct_of (w := 2) (h := 2) rfl rfl (by decide +kernel),
   by decide +kernel, distinct_of (w := 2) (h := 2) rfl rfl (by decide +kernel),
   by decide +kernel, distinct_of (w := 2) (h := 2) rfl rfl (by decide +kernel)⟩

def withJob (s : State) (j : JobRegs) : State := { s with job := j }

/-- Jobs with WIDTH = 0, HEIGHT = 33 or 17 (for 4:2:0), and an odd stride of 10-bit samples; a good one, which runs. -/
theorem witness_BadGeometryIsRejected :
    (withJob lumaBand { lumaBand.job with width := 0 }).job.width = 0 ∧
    applyForm lumaBand .applyY = some (Layout.luma, false, 0, 0) ∧ lumaBand.frame.cfg.bitdepth ≠ 3 ∧
    32 / 2 ^ Layout.luma.sy < (withJob lumaBand { lumaBand.job with height := 33 }).job.height.toNat ∧
    applyForm band420 (.applyUV420 .u false) = some (Layout.l420, true, 1, 1) ∧
    32 / 2 ^ Layout.l420.sy < (withJob band420 { band420.job with height := 17 }).job.height.toNat ∧
    (withCfg (withJob band420 { band420.job with lumaStride := 5 }) (Cfg.ofWord 1)).frame.cfg.bitdepth ≠ 0 ∧
    (withJob band420 { band420.job with lumaStride := 5 }).job.lumaStride.toNat % 2 = 1 ∧
    ¬ (lumaBand.job.width = 0 ∨ lumaBand.job.height = 0 ∨ 32 / 2 ^ Layout.luma.sy < lumaBand.job.height.toNat ∨
      lumaBand.frame.cfg.bitdepth ≠ 0) ∧ lumaBand.status.fault = false ∧ isNext (exec .applyY lumaBand) = true := by
  decide +kernel

theorem witness_ApplyLeavesAllButItsDstFootprint :
    applyForm lumaBand .applyY = some (Layout.luma, false, 0, 0) ∧ (∃ u, exec .applyY lumaBand = .next u) ∧
    (0x1FFF : Word) ∉ lumaBand.dstBytes Layout.luma ∧ (0x2008 : Word) ∉ lumaBand.dstBytes Layout.luma ∧
    (∃ u, exec .applyY rangeBand = .next u) :=
  ⟨rfl, lumaBand_completes, by decide +kernel, by decide +kernel, exists_of_isNext (by decide +kernel)⟩

/-- Before position (1, 0) there is only (0, 0). -/
theorem only_first {lay : Layout} {i : Instr} {s : State} (hb : 1 < lay.blockW) (h : s.positionGood i 0 0 = true) (hw : s.pw = 2)
    (hh : s.bh = 1) : ∀ X' y', X' < s.pw → y' < s.bh → earlier lay X' y' 1 0 → s.positionGood i X' y' = true := by
  intro X' y' hX hy he
  have h1 : (1 : Nat) / lay.blockW = 0 := Nat.div_eq_of_lt hb
  unfold earlier at he
  rw [h1] at he
  have hX' : X' = 0 := by
    rcases he with he | ⟨-, he | he⟩
    · exact absurd he (Nat.not_lt_zero _)
    · exact absurd he (Nat.not_lt_zero _)
    · omega
  have hy' : y' = 0 := by omega
  subst hX'
  subst hy'
  exact h

/-- What the statements about the first position that does not go through suppose of position (1, 0) of a 2 x 1 band. -/
def firstAt (s : State) (i : Instr) (lay : Layout) (uv : Bool) (p t : Nat) : Prop :=
  applyForm s i = some (lay, uv, p, t) ∧ s.bandAdmitted lay uv = true ∧ (1 < s.pw ∧ 0 < s.bh) ∧
    ∀ X' y', X' < s.pw → y' < s.bh → earlier lay X' y' 1 0 → s.positionGood i X' y' = true

theorem firstAt_of {s : State} {i : Instr} {lay : Layout} {uv : Bool} {p t : Nat} (hf : applyForm s i = some (lay, uv, p, t))
    (hb : 1 < lay.blockW) (hw : s.pw = 2) (hh : s.bh = 1) (h : (s.bandAdmitted lay uv && s.positionGood i 0 0) = true) :
    firstAt s i lay uv p t := by
  rw [Bool.and_eq_true] at h
  exact ⟨hf, h.1, by omega, only_first hb h.2 hw hh⟩

/-- `s` on a platform whose memory refuses one-byte accesses at `a` in direction `d`. -/
def withHole (s : State) (a : Word) (d : Dir) : State := { s with params := { testParams with busHoles := [⟨⟨a, a⟩, 1, d⟩] } }

/-- Two samples in one row. -/
def lumaRow : State := band 2 1 4 (tgWindow 0 9 19 1 2) (bytesFrom 0x1000 [1, 2])

/-- A hole at 0x1001: the second sample of the band gets a bus error. -/
def holeBand : State := withHole lumaRow 0x1001 .read

theorem witness_FirstFailingSourceReadIsReported :
    (firstAt holeBand .applyY Layout.luma false 0 0 ∧
      memOk holeBand.params (holeBand.srcAddr 1 0) holeBand.frame.cfg.container .read = false) ∧
    (firstAt rangeBand .applyY Layout.luma false 0 0 ∧
      memOk rangeBand.params (rangeBand.srcAddr 1 0) rangeBand.frame.cfg.container .read = true ∧
      rangeBand.frame.cfg.sampleMax < memRead rangeBand.mem (rangeBand.srcAddr 1 0) rangeBand.frame.cfg.container) :=
  ⟨⟨firstAt_of rfl (by decide) rfl rfl (by decide +kernel), by decide +kernel⟩,
   ⟨firstAt_of rfl (by decide) rfl rfl (by decide +kernel), by decide +kernel, by decide +kernel⟩⟩

/-- One row of `band420`. -/
def chromaRow : State := withJob band420 { band420.job with height := 1 }

/-- A 10-bit row of one 4:2:0 chroma sample whose luma samples are `l0` and `l1`. -/
def deepRow (l0 l1 : Nat) : State :=
  withCfg { withJob chromaRow { chromaRow.job with width := 1 } with
    mem := bytesFrom 0x1000 [100, 0] ++ bytesFrom 0x3000 [l0, 0, 0, l1] } (Cfg.ofWord 0x1)

theorem earlier_none {lay : Layout} {X' y' : Nat} : ¬ earlier lay X' y' 0 0 := by
  rintro (h | ⟨-, h | ⟨-, h⟩⟩)
  · rw [Nat.zero_div] at h; exact Nat.not_lt_zero _ h
  · exact Nat.not_lt_zero _ h
  · exact Nat.not_lt_zero _ h

theorem witness_FailingLumaReadsAndDstWritesAreReported :
    (firstAt (withHole chromaRow 0x3002 .read) (.applyUV420 .u false) Layout.l420 true 1 1 ∧
      (withHole chromaRow 0x3002 .read).sampleGood ((withHole chromaRow 0x3002 .read).srcAddr 1 0) = true ∧
      memOk (withHole chromaRow 0x3002 .read).params ((withHole chromaRow 0x3002 .read).lumaAddr (1 * 2 ^ 1) 0) 1 .read = false) ∧
    (firstAt (withHole chromaRow 0x3003 .read) (.applyUV420 .u false) Layout.l420 true 1 1 ∧
      (withHole chromaRow 0x3003 .read).sampleGood ((withHole chromaRow 0x3003 .read).lumaAddr (1 * 2 ^ 1) 0) = true ∧
      memOk (withHole chromaRow 0x3003 .read).params ((withHole chromaRow 0x3003 .read).lumaAddr (1 * 2 ^ 1 + 1) 0) 1 .read = false) ∧
    (firstAt (withHole chromaRow 0x2001 .write) (.applyUV420 .u false) Layout.l420 true 1 1 ∧
      (withHole chromaRow 0x2001 .write).readsGood Layout.l420 true 1 0 = true ∧
      (withHole chromaRow 0x2001 .write).grainHeld Layout.l420 1 1 0 = true ∧
      (withHole chromaRow 0x2001 .write).lookupHeld 1 ((withHole chromaRow 0x2001 .write).lookupKey 1 0 (.applyUV420 .u false)) = true ∧
      memOk (withHole chromaRow 0x2001 .write).params ((withHole chromaRow 0x2001 .write).dstAddr 1 0) 1 .write = false) ∧
    (firstAt (withHole lumaRow 0x2001 .write) .applyY Layout.luma false 0 0 ∧
      (withHole lumaRow 0x2001 .write).readsGood Layout.luma false 1 0 = true ∧
      (withHole lumaRow 0x2001 .write).grainHeld Layout.luma 0 1 0 = true ∧
      (withHole lumaRow 0x2001 .write).lookupHeld 0 ((withHole lumaRow 0x2001 .write).lookupKey 1 0 .applyY) = true ∧
      memOk (withHole lumaRow 0x2001 .write).params ((withHole lumaRow 0x2001 .write).dstAddr 1 0) 1 .write = false) :=
  ⟨⟨firstAt_of rfl (by decide) rfl rfl (by decide +kernel), by decide +kernel, by decide +kernel⟩,
   ⟨firstAt_of rfl (by decide) rfl rfl (by decide +kernel), by decide +kernel, by decide +kernel⟩,
   ⟨firstAt_of rfl (by decide) rfl rfl (by decide +kernel), by decide +kernel, by decide +kernel, by decide +kernel, by decide +kernel⟩,
   ⟨firstAt_of rfl (by decide) rfl rfl (by decide +kernel), by decide +kernel, by decide +kernel, by decide +kernel, by decide +kernel⟩⟩

/-- The same at the first position, with the out-of-range luma samples 1024 at lx, and at lx + 1. -/
theorem witness_FailingLumaReads_out_of_range :
    ((deepRow 0 0).bandAdmitted Layout.l420 true = true ∧ (deepRow 0 0).sampleGood ((deepRow 0 0).srcAddr 0 0) = true) ∧
    (deepRow 0 4).sampleGood ((deepRow 0 4).lumaAddr (0 * 2 ^ 1) (0 * 2 ^ 1)) = true ∧
    (deepRow 0 4).frame.cfg.sampleMax < memRead (deepRow 0 4).mem ((deepRow 0 4).lumaAddr (0 * 2 ^ 1 + 1) (0 * 2 ^ 1)) 2 ∧
    ∀ X' y', ¬ earlier Layout.l420 X' y' 0 0 :=
  ⟨by decide +kernel, by decide +kernel, by decide +kernel, fun _ _ => earlier_none⟩

/-- Only the grain cell of the first sample holds a value. -/
def bareBand : State := band 2 1 4 (tgWindow 0 9 19 1 1) (bytesFrom 0x1000 [1, 2])

theorem witness_ApplyNeedsItsGrainTable :
    firstAt bareBand .applyY Layout.luma false 0 0 ∧ bareBand.readsGood Layout.luma false 1 0 = true ∧
    bareBand.grainHeld Layout.luma 0 1 0 = false :=
  ⟨firstAt_of rfl (by decide) rfl rfl (by decide +kernel), by decide +kernel, by decide +kernel⟩

/-- Only entry 1 of table 0 holds a value: SHIFT misses entry 2 of sample 2. -/
def sparseBand : State := { lumaRow with scaling := [(1, 7)] }

/-- At 10 bits with INTERP, sample 8 interpolates between entries 2 and 3, of which the second holds no value. -/
def sparseInterpBand : State :=
  withCfg
    { sparseBand with
      params := { testParams with scaleIndexMode := .interp }
      scaling := [(1, 7), (2, 9)]
      mem := bytesFrom 0x1000 [4, 0, 8, 0] }
    (Cfg.ofWord 0x1)

theorem witness_ApplyNeedsItsScalingTable :
    (firstAt sparseBand .applyY Layout.luma false 0 0 ∧ sparseBand.readsGood Layout.luma false 1 0 = true ∧
      scalingAt sparseBand.scaling 0 (sparseBand.lookupKey 1 0 .applyY / 2 ^ sparseBand.frame.cfg.b8) = none) ∧
    (firstAt sparseInterpBand .applyY Layout.luma false 0 0 ∧ sparseInterpBand.readsGood Layout.luma false 1 0 = true ∧
      sparseInterpBand.params.scaleIndexMode = .interp ∧ sparseInterpBand.frame.cfg.b8 ≠ 0 ∧
      scalingAt sparseInterpBand.scaling 0 (sparseInterpBand.lookupKey 1 0 .applyY / 2 ^ sparseInterpBand.frame.cfg.b8 + 1) = none) :=
  ⟨⟨firstAt_of rfl (by decide) rfl rfl (by decide +kernel), by decide +kernel, by decide +kernel⟩,
   ⟨firstAt_of rfl (by decide) rfl rfl (by decide +kernel), by decide +kernel, rfl, by decide +kernel, by decide +kernel⟩⟩

/-- The dst footprint starts one byte into the src footprint. -/
def shiftedBand : State := withJob lumaBand { lumaBand.job with dstAddr := 0x1001 }

def deviceBand : State := { lumaBand with params := { testParams with devices := [⟨0x2007, 0x2007⟩] } }

theorem deviceBand_free :
    ∀ a ∈ deviceBand.dstBytes Layout.luma, a ∉ deviceBand.lumaBytes Layout.luma false ∧
      ¬ (a - deviceBand.params.base).toNat < 0x40000 ∧ a ∉ deviceBand.srcBytes Layout.luma := by
  have h : (deviceBand.dstBytes Layout.luma).all (fun a => !(deviceBand.lumaBytes Layout.luma false).contains a &&
      (!decide ((a - deviceBand.params.base).toNat < 0x40000) && !(deviceBand.srcBytes Layout.luma).contains a)) = true := by
    decide +kernel
  intro a ha
  have h' := List.all_eq_true.mp h a ha
  simp only [Bool.and_eq_true, Bool.not_eq_true', List.contains_eq_mem, decide_eq_false_iff_not] at h'
  exact h'

theorem witness_ForbiddenFootprintsAreRefused :
    (applyForm shiftedBand .applyY = some (Layout.luma, false, 0, 0) ∧ shiftedBand.frame.cfg.bitdepth ≠ 3 ∧
      shiftedBand.geometryOk Layout.luma false = true ∧ shiftedBand.job.dstAddr ≠ shiftedBand.job.srcAddr ∧
      (0x1001 : Word) ∈ shiftedBand.dstBytes Layout.luma ∧ (0x1001 : Word) ∈ shiftedBand.srcBytes Layout.luma) ∧
    (applyForm deviceBand .applyY = some (Layout.luma, false, 0, 0) ∧ deviceBand.frame.cfg.bitdepth ≠ 3 ∧
      deviceBand.geometryOk Layout.luma false = true ∧
      (∀ a ∈ deviceBand.dstBytes Layout.luma, a ∉ deviceBand.lumaBytes Layout.luma false ∧
        ¬ (a - deviceBand.params.base).toNat < 0x40000 ∧ a ∉ deviceBand.srcBytes Layout.luma) ∧
      (0x2007 : Word) ∈ deviceBand.dstBytes Layout.luma) :=
  ⟨⟨rfl, by decide +kernel, by decide +kernel, by decide +kernel, by decide +kernel, by decide +kernel⟩,
   ⟨rfl, by decide +kernel, by decide +kernel, deviceBand_free, by decide +kernel⟩⟩

/-- A store beside the footprint of an accepted APPLY_Y, one into each of its footprints, and one while nothing runs. -/
theorem witness_SampleStoresSetTheirByte :
    ((withEvents (lumaBand.accept 0x30) [.sampleWrite 0x1008 7]).events = .sampleWrite 0x1008 7 :: [] ∧
      (withEvents (lumaBand.accept 0x30) [.sampleWrite 0x1008 7]).runningApply = some (Layout.luma, false) ∧
      (0x1008 : Word) ∉ lumaBand.srcBytes Layout.luma ∧ (0x1008 : Word) ∉ lumaBand.dstBytes Layout.luma ∧
      (0x1008 : Word) ∉ lumaBand.lumaBytes Layout.luma false) ∧
    ((lumaBand.accept 0x30).command = some 0x30 ∧ decode 0x30 = .ok .applyY ∧
      applyForm (lumaBand.accept 0x30) .applyY = some (Layout.luma, false, 0, 0) ∧ lumaBand.frame.cfg.bitdepth ≠ 3 ∧
      lumaBand.geometryOk Layout.luma false = true ∧ (0x1007 : Word) ∈ lumaBand.srcBytes Layout.luma ∧
      (0x2000 : Word) ∈ lumaBand.dstBytes Layout.luma ∧ (0x3000 : Word) ∈ band420.lumaBytes Layout.l420 true) ∧
    (idle.command = none ∧ applyForm (idle.accept 0) .nop = none) := by decide +kernel

theorem witness_GrainCellsReadLieInsideTheGrid :
    Layout.l420 ∈ [Layout.luma, Layout.l420, Layout.l422, Layout.l444] ∧ (15 : Nat) < 32 / 2 ^ Layout.l420.sx ∧
    (0 : Nat) < 2 / 2 ^ Layout.l420.sx ∧ (1 : Nat) < 2 / 2 ^ Layout.luma.sy ∧ (31 : Nat) < 32 / 2 ^ Layout.luma.sy := by decide

theorem witness_OutputsLieInTheClipRange :
    applyForm lumaBand .applyY = some (Layout.luma, false, 0, 0) ∧ lumaBand.bandReady .applyY = true ∧
    lumaBand.dstDistinct ∧ ∃ u, exec .applyY lumaBand = .next u :=
  ⟨rfl, lumaBand_ready, lumaBand_distinct, lumaBand_completes⟩

def narrowBand : State := withJob lumaBand { lumaBand.job with width := 3, height := 1 }

theorem witness_EdgeBlocksAreConsistent :
    applyForm lumaBand .applyY = some (Layout.luma, false, 0, 0) ∧ lumaBand.bandReady .applyY = true ∧
    narrowBand.bandReady .applyY = true ∧ lumaBand.dstDistinct ∧ narrowBand.dstDistinct ∧
    (∃ u, exec .applyY lumaBand = .next u) ∧ (∃ u, exec .applyY narrowBand = .next u) :=
  ⟨rfl, lumaBand_ready, by decide +kernel, lumaBand_distinct,
   distinct_of (w := 3) (h := 1) rfl rfl (by decide +kernel), lumaBand_completes, exists_of_isNext (by decide +kernel)⟩

def inPlaceBand : State := withJob lumaBand { lumaBand.job with dstAddr := lumaBand.job.srcAddr }

theorem witness_InPlaceEqualsSeparateBuffers :
    applyForm lumaBand .applyY = some (Layout.luma, false, 0, 0) ∧ lumaBand.bandReady .applyY = true ∧
    inPlaceBand.bandReady .applyY = true ∧ lumaBand.dstDistinct ∧ inPlaceBand.dstDistinct ∧
    (∃ u, exec .applyY lumaBand = .next u) ∧ (∃ u, exec .applyY inPlaceBand = .next u) :=
  ⟨rfl, lumaBand_ready, by decide +kernel, lumaBand_distinct,
   distinct_of (w := 4) (h := 2) rfl rfl (by decide +kernel), lumaBand_completes, exists_of_isNext (by decide +kernel)⟩

theorem witness_RegistersReadBackTheirFields :
    (writingThenReading idle 0x000 0xFFFFFFFF).status.busy = false ∧
    (writingThenReading idle 0x1D0 0xFFFFFFFF).events =
      .write 32 (BitVec.ofNat 18 (0x1C0 + 4 * 4)) 0xFFFFFFFF :: .read 32 (BitVec.ofNat 18 (0x1C0 + 4 * 4)) :: [] :=
  ⟨rfl, rfl⟩

/-- Every single register and the last word of every bank. -/
theorem witness_WrittenWordsMeanTheirFields :
    [0x014, 0x018, 0x01C, 0x020, 0x024, 0x028, 0x02C, 0x040, 0x044, 0x048, 0x04C, 0x050, 0x054, 0x058, 0x05C, 0x100 + 4 * (23 / 4),
      0x120 + 4 * (31 / 4), 0x140 + 4 * (31 / 4), 0x180 + 4 * (13 / 2), 0x1A0 + 4 * (9 / 2), 0x1C0 + 4 * (9 / 2)].all
      (fun o => !(writing idle o 0xFFFF0000).status.busy &&
        (writing idle o 0xFFFF0000).events == [.write 32 (BitVec.ofNat 18 o) 0xFFFF0000]) = true := by decide +kernel

theorem witness_ReadOnlyRegistersReadTheirValueAndIgnoreWrites :
    idle.status.busy = false ∧ (withEvents idle [.read 32 0x008]).events = .read 32 0x008 :: [] ∧
    (withEvents idle [.read 32 0x030]).events = .read 32 0x030 :: [] ∧
    (writing idle 0x010 1).events = .write 32 0x010 1 :: [] ∧ (writing idle 0x030 1).events = .write 32 0x030 1 :: [] :=
  ⟨rfl, rfl, rfl, rfl, rfl⟩

theorem witness_RegisterWritesLeaveTheOthersAlone :
    (writing idle 0x21C6C 3).status.busy = false ∧ (0x21C6C : BitVec 18).toNat % 4 = 0 ∧ (0x21C6C : BitVec 18) ≠ 0x004 ∧
    (0x21C6C : BitVec 18) ≠ 0x008 ∧ (writing idle 0x21C6C 3).events = .write 32 0x21C6C 3 :: [] ∧
    (0x21C68 : BitVec 18).toNat % 4 = 0 ∧ (0x21C68 : BitVec 18) ≠ 0x21C6C := by decide +kernel

theorem witness_TableWindowsReadBack :
    (writingThenReading idle (0x10000 + 4 * ((2 * 74 + 73) * 82 + 81)) 7).status.busy = false ∧
    (writingThenReading idle (0x10000 + 4 * ((2 * 74 + 73) * 82 + 81)) 7).events =
      .write 32 (BitVec.ofNat 18 (0x10000 + 4 * ((2 * 74 + 73) * 82 + 81))) 7 ::
        .read 32 (BitVec.ofNat 18 (0x10000 + 4 * ((2 * 74 + 73) * 82 + 81))) :: [] ∧
    (writingThenReading idle (0x30000 + 4 * (2 * 256 + 255)) 7).events =
      .write 32 (BitVec.ofNat 18 (0x30000 + 4 * (2 * 256 + 255))) 7 :: .read 32 (BitVec.ofNat 18 (0x30000 + 4 * (2 * 256 + 255))) :: [] :=
  ⟨rfl, rfl, rfl⟩

/-- The ends of every reserved range. -/
theorem witness_ReservedOffsetsReadZeroAndIgnoreWrites :
    [0x034, 0x03C, 0x060, 0x0FC, 0x118, 0x11C, 0x160, 0x17C, 0x19C, 0x1B4, 0x1BC, 0x1D4, 0xFFFC, 0x21C70, 0x2FFFC, 0x30C00, 0x3FFFC].all
      (fun o => slotOf (BitVec.ofNat 18 o) == .reserved) = true ∧
    (writing idle 0x34 0).status.busy = false ∧ (withEvents idle [.read 32 0x34]).events = .read 32 0x34 :: [] := by decide +kernel

theorem witness_MalformedHostAccessesGetABusError :
    (withEvents idle [.write 16 0x014 0]).events = .write 16 0x014 0 :: [] ∧ (16 : Nat) ≠ 32 ∧
    (withEvents idle [.read 32 0x016]).events = .read 32 0x016 :: [] ∧ (0x016 : BitVec 18).toNat % 4 ≠ 0 := by decide +kernel

theorem witness_HostReadsHaveNoSideEffect : (withEvents idle [.read 32 0x10000]).events = .read 32 0x10000 :: [] := rfl

theorem witness_BusyReadsReturnStatusRegisters :
    (withEvents (idle.accept 0x10) [.read 32 0x00C]).status.busy = true ∧ (0x00C : BitVec 18).toNat % 4 = 0 ∧
    (withEvents (idle.accept 0x10) [.read 32 0x00C]).events = .read 32 0x00C :: [] := by decide +kernel

theorem witness_BusyWritesAreDroppedAndReported :
    (writing (idle.accept 0x10) 0x3FFFC 1).status.busy = true ∧ (0x3FFFC : BitVec 18).toNat % 4 = 0 ∧
    (0x3FFFC : BitVec 18) ≠ 0x000 ∧ (0x3FFFC : BitVec 18) ≠ 0x004 ∧
    (writing (idle.accept 0x10) 0x3FFFC 1).events = .write 32 0x3FFFC 1 :: [] ∧
    (withEvents (idle.accept 0x10) [.read 32 0x014]).status.busy = true ∧
    (withEvents (idle.accept 0x10) [.read 32 0x014]).events = .read 32 0x014 :: [] := by decide +kernel

theorem witness_CommandsSeeTheStateAtTheirIssue :
    (writing (idle.accept 0x10) 0x014 3).status.busy = true ∧
    (writing (idle.accept 0x10) 0x014 3).events = .write 32 (BitVec.ofNat 18 0x014) 3 :: [] ∧
    (∃ t, step (writing (idle.accept 0x10) 0x014 3) = .next t) :=
  ⟨rfl, rfl, exists_of_isNext (by decide +kernel)⟩

theorem witness_StatusWritesClearWhatTheyName : (writing faulted 0x004 6).events = .write 32 0x004 6 :: [] := rfl

theorem witness_StatusReadsItsBits : (withEvents faulted [.read 32 0x004]).events = .read 32 0x004 :: [] := rfl

theorem witness_InterruptLineFollowsStatusAndEnables :
    (∃ t, exec .nop faulted = .next t) ∧
    ((writing faulted 0x004 6).events = .write 32 0x004 6 :: [] ∧ (6 : Word).toNat / 2 % 2 = 1 ∧ (6 : Word).toNat / 4 % 2 = 1 ∧
      ∃ t, step (writing faulted 0x004 6) = .next t) ∧
    ((writing faulted 0x000 2).events = .write 32 0x000 2 :: [] ∧ ∃ t, step (writing faulted 0x000 2) = .next t) :=
  ⟨exists_of_isNext (by decide +kernel), ⟨rfl, by decide, by decide, exists_of_isNext (by decide +kernel)⟩,
   ⟨rfl, exists_of_isNext (by decide +kernel)⟩⟩

theorem witness_ResetClearsTheBlock :
    ((withEvents seeded [.reset]).events = .reset :: [] ∧ (withEvents seeded [.reset]).runningApply = none) ∧
    ((withEvents (lumaBand.accept 0x30) [.reset]).events = .reset :: [] ∧
      (withEvents (lumaBand.accept 0x30) [.reset]).runningApply = some (Layout.luma, false) ∧
      (0x1000 : Word) ∉ (withEvents (lumaBand.accept 0x30) [.reset]).dstBytes Layout.luma) := by decide +kernel

theorem witness_IdleBlockIsQuiescent : idle.events = [] ∧ idle.command = none := ⟨rfl, rfl⟩

theorem identityTables_wf : Cells.wf scalingCells identityTables = true := by
  rw [Cells.wf_iff]
  unfold identityTables Cells.Rising
  refine ⟨by rw [List.pairwise_map]; exact List.pairwise_lt_range, fun c hc => ?_⟩
  obtain ⟨k, hk, rfl⟩ := List.mem_map.mp hc
  exact List.mem_range.mp hk

theorem witness_EveryStepKeepsTheInvariant :
    (lumaBand.accept 0x30).Inv ∧ ∃ t, step (lumaBand.accept 0x30) = .next t :=
  ⟨⟨by decide +kernel, by decide +kernel, identityTables_wf, rfl, by decide +kernel, fun _ => ⟨rfl, rfl⟩⟩,
    exists_of_isNext (by decide +kernel)⟩

theorem witness_ParametersAreConstant : ∃ t, step (idle.withFetchWord 32 0x00000A02) = .next t := exists_of_isNext (by decide +kernel)

end Sys2Proof.Tests
end

section
/-!
SUPPORT. The statements of 00_scope.md: the model fault UNINIT_READ of R13, and the platform's parameters of R6 and R7, which
no move changes.
-/

namespace Sys2Proof.Machine

/-! The luma cells that GEN_GRAIN_UV reads (41_grain_tables.md R128) -/

theorem mem_lumaTapCells {lay : Layout} {y x r c : Nat} :
    (r, c) ∈ lumaTapCells lay y x ↔
      ∃ i < lay.sy + 1, ∃ j < lay.sx + 1, r = ((y - 3) <<< lay.sy) + 3 + i ∧ c = ((x - 3) <<< lay.sx) + 3 + j := by
  simp only [lumaTapCells, List.mem_flatMap, List.mem_map, List.mem_range, Prod.mk.injEq, eq_comm]

/-- `k` is sub-position `k % 2 ^ e` of the chroma position `k / 2 ^ e`. -/
theorem exists_subsampled {e : Nat} (he : e ≤ 1) (k : Nat) : ∃ i < e + 1, k = (k / 2 ^ e) <<< e + i := by
  refine ⟨k % 2 ^ e, ?_, ?_⟩
  · interval_cases e <;> omega
  · rw [Nat.shiftLeft_eq, Nat.div_add_mod']

/-- Every luma cell of rows 3..72 and columns 3..78 is under the luma tap of some cell of the AR region. -/
theorem exists_arRegion_lumaTap {lay : Layout} (hsx : lay.sx ≤ 1) (hsy : lay.sy ≤ 1) {r c : Nat} (hr : r < 70) (hc : c < 76) :
    ∃ y x, (y, x) ∈ arRegion lay.gridH lay.gridW ∧ (r + 3, c + 3) ∈ lumaTapCells lay y x := by
  obtain ⟨i, hi, hri⟩ := exists_subsampled hsy r
  obtain ⟨j, hj, hcj⟩ := exists_subsampled hsx c
  refine ⟨r / 2 ^ lay.sy + 3, c / 2 ^ lay.sx + 3, mem_arRegion.mpr ⟨Nat.le_add_left .., ?_, Nat.le_add_left .., ?_⟩,
    mem_lumaTapCells.mpr ⟨i, hi, j, hj, ?_, ?_⟩⟩
  · unfold Layout.gridH
    generalize lay.sy = e at hsy ⊢
    split <;> interval_cases e <;> omega
  · unfold Layout.gridW
    generalize lay.sx = e at hsx ⊢
    split <;> interval_cases e <;> omega
  · rw [Nat.add_sub_cancel]; omega
  · rw [Nat.add_sub_cancel]; omega

/-- A GEN_GRAIN_UV command that meets no missing luma cell has met every one of them. -/
theorem lumaGrainHeld_of_lumaHeld {s : State} {lay : Layout} (hsx : lay.sx ≤ 1) (hsy : lay.sy ≤ 1)
    (h : lumaHeld s lay = true) : s.lumaGrainHeld = true := by
  simp only [lumaHeld, List.all_eq_true] at h
  simp only [State.lumaGrainHeld, List.all_eq_true, List.mem_range]
  intro r hr c hc
  obtain ⟨y, x, hyx, hrc⟩ := exists_arRegion_lumaTap hsx hsy hr hc
  exact h (y, x) hyx (r + 3, c + 3) hrc

/-- The three GEN_GRAIN_UV commands in one form (41_grain_tables.md R131 to R133). -/
theorem exec_genGrainUV {i : Instr} {lay : Layout} {plane : Plane} (h : grainForm i = some (lay, plane)) (s : State) :
    exec i s = genGrainUV (encode i) lay plane s := by
  cases i <;> simp only [grainForm, reduceCtorEq, Option.some.injEq, Prod.mk.injEq] at h <;> obtain ⟨rfl, rfl⟩ := h <;> rfl

theorem grainForm_subsampling {i : Instr} {lay : Layout} {plane : Plane} (h : grainForm i = some (lay, plane)) :
    lay.sx ≤ 1 ∧ lay.sy ≤ 1 := by
  cases i <;> simp only [grainForm, reduceCtorEq, Option.some.injEq, Prod.mk.injEq] at h <;> obtain ⟨rfl, -⟩ := h <;> decide

theorem Cfg.depthIllegal_eq_false {c : Cfg} (h : c.bitdepth ≠ 3) : c.depthIllegal = false := beq_eq_false_iff_ne.mpr h

/-- Settles O22: every luma cell of those rows and columns is read, so the missing one is met. -/
theorem genGrainUVNeedsTheLumaTable : Obligations.GenGrainUVNeedsTheLumaTable := by
  intro i s lay plane hi hdepth hnum hmissing
  obtain ⟨hsx, hsy⟩ := grainForm_subsampling hi
  have hnot : lumaHeld s lay = false := by
    rw [← Bool.not_eq_true]
    exact fun h => Bool.false_ne_true (hmissing.symm.trans (lumaGrainHeld_of_lumaHeld hsx hsy h))
  rw [exec_genGrainUV hi, genGrainUV_of_not_held (Cfg.depthIllegal_eq_false hdepth) hnum hnot]

/-! An APPLY command that meets a cell or entry without a value (00_scope.md R13) -/

/-- An admitted APPLY command whose first position that does not go through has good samples, but misses a grain cell or a
scaling entry, ends in UNINIT_READ. -/
theorem exec_apply_uninitRead {i : Instr} {s : State} {lay : Layout} {uv : Bool} {p t X y : Nat}
    (hf : applyForm s i = some (lay, uv, p, t)) (ha : s.bandAdmitted lay uv = true) (hX : X < s.pw) (hy : y < s.bh)
    (hfirst : ∀ X' y', X' < s.pw → y' < s.bh → earlier lay X' y' X y → s.positionGood i X' y' = true)
    (hreads : s.readsGood lay uv X y = true)
    (hmiss : s.grainHeld lay p X y = false ∨ s.lookupHeld t (s.lookupKey X y i) = false) :
    exec i s = .fault .uninitRead := by
  have hstop : s.applySample i X y = .error (.model .uninitRead) := by
    rw [applySample_of_good hf hreads, Bool.and_eq_false_iff.mpr hmiss]
    rfl
  rw [exec_apply_first_stop hf ha hX hy hfirst hstop]
  rfl

/-- A lookup misses an entry: the one it starts at, or the next one where it interpolates (42_scaling.md R144). -/
theorem lookupHeld_eq_false {s : State} {t v : Nat}
    (h : scalingAt s.scaling t (v / 2 ^ s.frame.cfg.b8) = none ∨
      (s.params.scaleIndexMode = .interp ∧ s.frame.cfg.b8 ≠ 0 ∧ v / 2 ^ s.frame.cfg.b8 ≠ 255 ∧
        scalingAt s.scaling t (v / 2 ^ s.frame.cfg.b8 + 1) = none)) :
    s.lookupHeld t v = false := by
  unfold State.lookupHeld
  rcases h with hfirst | ⟨hmode, hdepth, hlast, hnext⟩
  · simp [hfirst]
  · simp [hmode, hdepth, hlast, hnext]

/-- Settles O32: the sample that reads the cell stops with UNINIT_READ, and it is the first to stop. -/
theorem applyNeedsItsGrainTable : Obligations.ApplyNeedsItsGrainTable := by
  intro i s lay uv p t hf ha X y hX hy hfirst hreads hmiss
  exact exec_apply_uninitRead hf ha hX hy hfirst hreads (Or.inl hmiss)

/-- Settles O57: the missing entry makes the lookup of the first sample that does not go through stop. -/
theorem applyNeedsItsScalingTable : Obligations.ApplyNeedsItsScalingTable := by
  intro i s lay uv p t hf ha X y hX hy hfirst hreads b8 xi hmiss
  exact exec_apply_uninitRead hf ha hX hy hfirst hreads (Or.inr (lookupHeld_eq_false hmiss))

/-! The platform's parameters (00_scope.md R6, R7) -/

theorem genGrainUV_params {w : Word} {lay : Layout} {plane : Plane} {s t : State} (h : genGrainUV w lay plane s = .next t) :
    t.params = s.params := by
  rcases genGrainUV_next h with ⟨-, rfl⟩ | ⟨-, -, g, -, rfl⟩
  · simp
  · simp

theorem genScaling_params {w : Word} {tab n nmax : Nat} {pts : List Point} {s t : State}
    (h : genScaling w tab n nmax pts s = .next t) : t.params = s.params := by
  rw [genScaling_eq] at h
  split at h
  · cases h; simp
  · cases h; simp

theorem applyBand_params {w : Word} {lay : Layout} {uv : Bool} {sample : Nat → Nat → Except Stop SampleWrite} {s t : State}
    (h : applyBand w lay uv sample s = .next t) : t.params = s.params := by
  rcases applyBand_next h with rfl | rfl | ⟨ws, -, rfl⟩ | ⟨code, a, -, rfl⟩ <;> simp

theorem exec_params {i : Instr} {s t : State} (h : exec i s = .next t) : t.params = s.params := by
  cases i with
  | nop => cases h; simp
  | prngLoad imm16 => cases h; simp
  | prngStep n => cases h; simp
  | genGrainY =>
    rcases execGenGrainY_next h with ⟨-, rfl⟩ | ⟨-, g, -, rfl⟩
    · simp
    · simp
  | genGrainUV420 plane => exact genGrainUV_params h
  | genGrainUV422 plane => exact genGrainUV_params h
  | genGrainUV444 plane => exact genGrainUV_params h
  | genScalingY => exact genScaling_params h
  | genScalingU => exact genScaling_params h
  | genScalingV => exact genScaling_params h
  | applyY => exact applyBand_params h
  | applyUV420 plane isId => exact applyBand_params h
  | applyUV422 plane isId => exact applyBand_params h
  | applyUV444 plane isId => exact applyBand_params h

theorem engineStep_params {s t : State} (h : engineStep s = .next t) : t.params = s.params := by
  rcases engineStep_cases h with ⟨-, rfl⟩ | ⟨w, e, -, -, rfl⟩ | ⟨w, i, -, -, h⟩
  · rfl
  · simp
  · exact exec_params h

@[simp] theorem hostWrite_params (bits : Nat) (o : BitVec 18) (v : Word) (s : State) :
    (hostWrite bits o v s).params = s.params := by
  rcases hostWrite_cases bits o v s with ⟨-, h⟩ | ⟨-, -, h⟩ | ⟨-, h⟩
  · simp [h]
  · simp [h]
  · obtain ⟨-, -, hparams, -, -⟩ := writeSlot_keeps s v (slotOf o)
    simp [h, hparams]

@[simp] theorem hostRead_params (bits : Nat) (o : BitVec 18) (s : State) : (hostRead bits o s).params = s.params := by
  rw [hostRead_eq]

@[simp] theorem resetBlock_params (s : State) : (resetBlock s).params = s.params := by
  rw [resetBlock_eq]

theorem takeEvent_params {e : Event} {s t : State} (h : takeEvent e s = .next t) : t.params = s.params := by
  cases e with
  | write bits offset v => cases h; simp
  | read bits offset => cases h; simp
  | engine => exact engineStep_params h
  | reset => cases h; simp
  | sampleWrite a v => simp [storeSample_next h]

/-- Settles O55, by the kinds of move. -/
theorem parametersAreConstant : Obligations.ParametersAreConstant := by
  intro s t h
  rcases step_cases h with ⟨-, h⟩ | ⟨e, rest, -, h⟩
  · exact engineStep_params h
  · rw [takeEvent_params h, State.setEvents_params]

end Sys2Proof.Machine
end

section
/-!
SUPPORT. How a command can end, said once, and with it the statements about every command of 10_state.md R20 and 60_exceptions.md
R204.
-/

namespace Sys2Proof.Machine

/-- The states in which command `i`, executed in `s`, can end: completed with its own outputs written, or faulted. -/
inductive CommandEnd (i : Instr) (s : State) : State → Prop where
  | faulted (code : FaultCode) (addr : Word) (hcode : code ≠ .none) : CommandEnd i s (s.afterFault code (encode i) addr)
  | nop (hi : i = .nop) : CommandEnd i s s.afterCompletion
  | prngLoad (imm16 : BitVec 16) (hi : i = .prngLoad imm16) : CommandEnd i s (s.setPrng imm16).afterCompletion
  | prngStep (n : Nat) (hi : i = .prngStep n) :
      CommandEnd i s ((s.setPrng (draw s.prngState n).1).setPrngOut (BitVec.ofNat 16 (draw s.prngState n).2)).afterCompletion
  | grain (p h w : Nat) (g : Grid × BitVec 16) (hi : writesGrain i = true) (hp : p < 3) (hh : h ≤ 74) (hw : w ≤ 82)
      (hg : Grid.Shape h w g.1) : CommandEnd i s (s.storeGrid p g).afterCompletion
  | scaling (t : Nat) (pts : List Point) (hi : writesScaling i = true) (ht : t < 3) :
      CommandEnd i s (s.setScaling (Cells.overlay (tableCells t pts) s.scaling)).afterCompletion
  | band (ws : List SampleWrite) (hi : applyForm s i ≠ none) :
      CommandEnd i s (s.setMem (writeSamples s.frame.cfg.container ws s.mem)).afterCompletion
  | bandFaulted (lay : Layout) (code : FaultCode) (addr : Word) (hi : applyForm s i ≠ none) (hcode : code ≠ .none) :
      CommandEnd i s ((s.unspecify (s.dstBytes lay)).afterFault code (encode i) addr)

/-- An APPLY sample stops in hardware with BUS_ERROR or SAMPLE_RANGE only (60_exceptions.md R207). -/
theorem applySample_hardware {i : Instr} {s : State} {X y : Nat} {code : FaultCode} {a : Word}
    (h : s.applySample i X y = .error (.hardware code a)) : code = .busError ∨ code = .sampleRange := by
  cases i with
  | applyY => exact lumaSample_hardware h
  | applyUV420 plane isId => exact chromaSample_hardware h
  | applyUV422 plane isId => exact chromaSample_hardware h
  | applyUV444 plane isId => exact chromaSample_hardware h
  | _ => cases h

theorem exec_apply_ends {i : Instr} {s u : State} {form : Layout × Bool × Nat × Nat} (hf : applyForm s i = some form)
    (h : exec i s = .next u) : CommandEnd i s u := by
  obtain ⟨lay, uv, p, t⟩ := form
  have hi : applyForm s i ≠ none := by simp [hf]
  rw [exec_apply hf] at h
  rcases applyBand_next h with rfl | rfl | ⟨ws, -, rfl⟩ | ⟨code, a, hstop, rfl⟩
  · exact .faulted .badParam 0 (by decide)
  · exact .faulted .badGeometry 0 (by decide)
  · exact .band ws hi
  · obtain ⟨c, -, hc⟩ := collectSamples_error hstop
    exact .bandFaulted lay code a hi (by rcases applySample_hardware hc with rfl | rfl <;> decide)

theorem writesGrain_of_grainForm {i : Instr} {lay : Layout} {plane : Plane} (h : grainForm i = some (lay, plane)) :
    writesGrain i = true := by
  cases i <;> simp only [grainForm, reduceCtorEq] at h <;> rfl

theorem Plane.grainPlane_lt (plane : Plane) : Plane.grainPlane plane < 3 := by cases plane <;> decide

theorem exec_genGrainUV_ends {i : Instr} {lay : Layout} {plane : Plane} {s u : State} (hi : grainForm i = some (lay, plane))
    (h : exec i s = .next u) : CommandEnd i s u := by
  rw [exec_genGrainUV hi] at h
  rcases genGrainUV_next h with ⟨-, rfl⟩ | ⟨-, -, g, hg, rfl⟩
  · exact .faulted .badParam 0 (by decide)
  · exact .grain _ lay.gridH lay.gridW g (writesGrain_of_grainForm hi) (Plane.grainPlane_lt plane)
      (Nat.le_succ_of_le lay.gridH_le) lay.gridW_le (hg ▸ chromaGrid_shape s lay plane)

theorem genScaling_ends {i : Instr} {t n nmax : Nat} {pts : List Point} {s u : State} (hi : writesScaling i = true)
    (ht : t < 3) (h : genScaling (encode i) t n nmax pts s = .next u) : CommandEnd i s u := by
  rw [genScaling_eq] at h
  split at h
  · cases h; exact .scaling t pts hi ht
  · cases h; exact .faulted .badParam 0 (by decide)

/-- How every command can end (60_exceptions.md R201, R203). -/
theorem exec_ends {i : Instr} {s u : State} (h : exec i s = .next u) : CommandEnd i s u := by
  cases i with
  | nop => cases h; exact .nop rfl
  | prngLoad imm16 => cases h; exact .prngLoad imm16 rfl
  | prngStep n => cases h; exact .prngStep n rfl
  | genGrainY =>
    rcases execGenGrainY_next h with ⟨-, rfl⟩ | ⟨-, g, hg, rfl⟩
    · exact .faulted .badParam 0 (by decide)
    · exact .grain 0 73 82 g rfl (by decide) (by decide) (by decide) (hg ▸ lumaGrid_shape s)
  | genGrainUV420 plane => exact exec_genGrainUV_ends rfl h
  | genGrainUV422 plane => exact exec_genGrainUV_ends rfl h
  | genGrainUV444 plane => exact exec_genGrainUV_ends rfl h
  | genScalingY => exact genScaling_ends rfl (by decide) h
  | genScalingU => exact genScaling_ends rfl (by decide) h
  | genScalingV => exact genScaling_ends rfl (by decide) h
  | applyY => exact exec_apply_ends rfl h
  | applyUV420 plane isId => exact exec_apply_ends rfl h
  | applyUV422 plane isId => exact exec_apply_ends rfl h
  | applyUV444 plane isId => exact exec_apply_ends rfl h

theorem writesPrng_of_writesGrain {i : Instr} (h : writesGrain i = true) : writesPrng i = true := by
  cases i <;> simp only [writesGrain, Bool.false_eq_true] at h <;> rfl

/-- Settles O11, by the ways a command can end. -/
theorem commandsWriteOnlyTheirOutputs : Obligations.CommandsWriteOnlyTheirOutputs := by
  intro i s t h
  cases exec_ends h with
  | faulted code addr hcode => simp
  | nop hi => simp
  | prngLoad imm16 hi => simp [hi, writesPrng]
  | prngStep n hi => simp [hi, writesPrng]
  | grain p h w g hi hp hh hw hg => simp [hi, writesPrng_of_writesGrain hi]
  | scaling t pts hi ht => simp [hi]
  | band ws hi => simp [hi]
  | bandFaulted lay code addr hi hcode => simp [hi]

/-! BITDEPTH = 3 (60_exceptions.md R204) -/

theorem Cfg.depthIllegal_eq_true {c : Cfg} (h : c.bitdepth = 3) : c.depthIllegal = true := beq_iff_eq.mpr h

theorem genGrainUV_of_depthIllegal {w : Word} {lay : Layout} {plane : Plane} {s : State} (h : s.frame.cfg.depthIllegal = true) :
    genGrainUV w lay plane s = .next (s.afterFault .badParam w 0) := by
  rw [genGrainUV, if_pos h, State.raise_eq]

theorem applyBand_of_depthIllegal {w : Word} {lay : Layout} {uv : Bool} {sample : Nat → Nat → Except Stop SampleWrite}
    {s : State} (h : s.frame.cfg.depthIllegal = true) : applyBand w lay uv sample s = .next (s.afterFault .badParam w 0) := by
  rw [applyBand, if_pos h, State.raise_eq]

/-- Settles O12: each command that reads the depth checks it first. -/
theorem illegalDepthRaisesBadParam : Obligations.IllegalDepthRaisesBadParam := by
  intro i s hi hdepth
  have h := Cfg.depthIllegal_eq_true hdepth
  cases i with
  | genGrainY => exact (execGenGrainY_eq s).trans (if_pos h)
  | genGrainUV420 plane => exact genGrainUV_of_depthIllegal h
  | genGrainUV422 plane => exact genGrainUV_of_depthIllegal h
  | genGrainUV444 plane => exact genGrainUV_of_depthIllegal h
  | applyY => exact applyBand_of_depthIllegal h
  | applyUV420 plane isId => exact applyBand_of_depthIllegal h
  | applyUV422 plane isId => exact applyBand_of_depthIllegal h
  | applyUV444 plane isId => exact applyBand_of_depthIllegal h
  | _ => cases hi

end Sys2Proof.Machine
end

section
/-!
SUPPORT. The invariant of `State.Inv`: one lemma per update of the state, then per move (10_state.md R25, R34, R35, R40, R41,
20_memory.md R66).
-/

namespace Sys2Proof.Machine

namespace State.Inv

variable {s : State}

theorem wf_mem (h : s.Inv) : Memory.wf s.mem = true := h.1

theorem wf_grain (h : s.Inv) : Cells.wf grainCells s.grain = true := h.2.1

theorem wf_scaling (h : s.Inv) : Cells.wf scalingCells s.scaling = true := h.2.2.1

theorem setMem (h : s.Inv) {m : Memory} (hm : Memory.wf m = true) : (s.setMem m).Inv :=
  have ⟨_, hgrain, hscaling, hbusy, hcode, hrecord⟩ := h
  ⟨hm, hgrain, hscaling, hbusy, hcode, hrecord⟩

theorem setGrain (h : s.Inv) {g : Cells 16} (hg : Cells.wf grainCells g = true) : (s.setGrain g).Inv :=
  have ⟨hmem, _, hscaling, hbusy, hcode, hrecord⟩ := h
  ⟨hmem, hg, hscaling, hbusy, hcode, hrecord⟩

theorem setScaling (h : s.Inv) {t : Cells 8} (ht : Cells.wf scalingCells t = true) : (s.setScaling t).Inv :=
  have ⟨hmem, hgrain, _, hbusy, hcode, hrecord⟩ := h
  ⟨hmem, hgrain, ht, hbusy, hcode, hrecord⟩

theorem setPrng (h : s.Inv) (r : BitVec 16) : (s.setPrng r).Inv := h

theorem setPrngOut (h : s.Inv) (v : BitVec 16) : (s.setPrngOut v).Inv := h

theorem setEvents (h : s.Inv) (es : List Event) : (s.setEvents es).Inv := h

theorem respond (h : s.Inv) (r : Response) : (s.respond r).Inv := h

theorem storeGrid (h : s.Inv) {p height width : Nat} {g : Grid × BitVec 16} (hg : Grid.Shape height width g.1)
    (hw : width ≤ 82) (hh : height ≤ 74) (hp : p < 3) : (s.storeGrid p g).Inv :=
  (h.setGrain (storeGrid_wf hg hw hh hp h.wf_grain)).setPrng g.2

theorem unspecify (h : s.Inv) (addrs : List Word) : (s.unspecify addrs).Inv :=
  h.setMem (Memory.wf_unspecify h.wf_mem addrs)

theorem afterCompletion (h : s.Inv) : s.afterCompletion.Inv :=
  have ⟨hmem, hgrain, hscaling, _, hcode, hrecord⟩ := h
  ⟨hmem, hgrain, hscaling, rfl, hcode, hrecord⟩

/-- A recorded fault has a code, be it the first or a later one. -/
theorem recordedCode_ne_none (h : s.Inv) {code : FaultCode} (hcode : code ≠ .none) :
    (if s.status.fault then s.status.faultCode else code) ≠ .none := by
  obtain ⟨-, -, -, -, hfirst, -⟩ := h
  split
  · next hf => exact fun hn => by simp [hfirst.mpr hn] at hf
  · exact hcode

theorem recordFault (h : s.Inv) {code : FaultCode} (hcode : code ≠ .none) (info addr : Word) :
    (s.recordFault code info addr).Inv := by
  have hnone := h.recordedCode_ne_none hcode
  obtain ⟨hmem, hgrain, hscaling, hbusy, -, -⟩ := h
  rw [State.recordFault_eq]
  exact ⟨hmem, hgrain, hscaling, hbusy, ⟨nofun, fun hn => absurd hn hnone⟩, nofun⟩

theorem abandon (h : s.Inv) : s.abandon.Inv :=
  have ⟨hmem, hgrain, hscaling, _, hcode, hrecord⟩ := h
  ⟨hmem, hgrain, hscaling, rfl, hcode, hrecord⟩

theorem afterFault (h : s.Inv) {code : FaultCode} (hcode : code ≠ .none) (info addr : Word) :
    (s.afterFault code info addr).Inv := by
  rw [← State.raise_eq]
  exact (h.recordFault hcode info addr).abandon

theorem accept (h : s.Inv) (w : Word) : (s.accept w).Inv :=
  have ⟨hmem, hgrain, hscaling, _, hcode, hrecord⟩ := h
  ⟨hmem, hgrain, hscaling, rfl, hcode, hrecord⟩

theorem clearDone (h : s.Inv) : s.clearDone.Inv := h

theorem clearFault (h : s.Inv) : s.clearFault.Inv :=
  have ⟨hmem, hgrain, hscaling, hbusy, _, _⟩ := h
  ⟨hmem, hgrain, hscaling, hbusy, ⟨fun _ => rfl, fun _ => rfl⟩, fun _ => ⟨rfl, rfl⟩⟩

theorem writeStatus (h : s.Inv) (v : Word) : (s.writeStatus v).Inv := by
  have hdone : (if v.getLsbD 1 then s.clearDone else s).Inv := by
    split
    · exact h.clearDone
    · exact h
  unfold State.writeStatus
  dsimp only
  split
  · exact hdone.clearFault
  · exact hdone

theorem issue (h : s.Inv) (w : Word) : (s.issue w).Inv := by
  unfold State.issue
  split
  · exact h
  · exact h.accept w

/-- The write of a slot of the window: a RAM word lands on a cell that exists. -/
theorem writeSlot (h : s.Inv) (v : Word) (o : BitVec 18) : (writeSlot s v (slotOf o)).Inv := by
  obtain ⟨hgrain, hscaling⟩ := slotOf_bounds o
  cases hsl : slotOf o with
  | status => exact h.writeStatus v
  | cmd => exact h.issue v
  | grain i => exact h.setGrain (Cells.wf_set _ (hgrain i hsl) h.wf_grain)
  | scaling i => exact h.setScaling (Cells.wf_set _ (hscaling i hsl) h.wf_scaling)
  | _ => exact h

theorem hostWrite (h : s.Inv) (bits : Nat) (o : BitVec 18) (v : Word) : (hostWrite bits o v s).Inv := by
  rcases hostWrite_cases bits o v s with ⟨-, hw⟩ | ⟨-, -, hw⟩ | ⟨-, hw⟩ <;> rw [hw]
  · exact h.respond _
  · exact (h.recordFault (by decide) _ _).respond _
  · exact (h.writeSlot v o).respond _

theorem hostRead (h : s.Inv) (bits : Nat) (o : BitVec 18) : (hostRead bits o s).Inv := by
  rw [hostRead_eq]
  exact h

/-- Every end of a command keeps the invariant. -/
theorem exec (h : s.Inv) {i : Instr} {u : State} (hu : exec i s = .next u) : u.Inv := by
  cases exec_ends hu with
  | faulted code addr hcode => exact h.afterFault hcode _ _
  | nop hi => exact h.afterCompletion
  | prngLoad imm16 hi => exact (h.setPrng _).afterCompletion
  | prngStep n hi => exact ((h.setPrng _).setPrngOut _).afterCompletion
  | grain p height width g hi hp hh hw hg => exact (h.storeGrid hg hw hh hp).afterCompletion
  | scaling t pts hi ht => exact (h.setScaling (Cells.wf_overlay (tableCells_wf ht pts) h.wf_scaling)).afterCompletion
  | band ws hi => exact (h.setMem (Memory.wf_writeSamples h.wf_mem _ ws)).afterCompletion
  | bandFaulted lay code addr hi hcode => exact (h.unspecify _).afterFault hcode _ _

theorem engineStep (h : s.Inv) {u : State} (hu : engineStep s = .next u) : u.Inv := by
  rcases engineStep_cases hu with ⟨-, rfl⟩ | ⟨w, e, -, -, rfl⟩ | ⟨w, i, -, -, hu⟩
  · exact h
  · exact h.afterFault (by decide) _ _
  · exact h.exec hu

end State.Inv

/-- Settles O53: the storages are empty and the block is idle. -/
theorem invariantHoldsAtReset : Obligations.InvariantHoldsAtReset :=
  ⟨rfl, rfl, rfl, rfl, ⟨fun _ => rfl, fun _ => rfl⟩, fun _ => ⟨rfl, rfl⟩⟩

theorem State.Inv.resetBlock {s : State} (h : s.Inv) : (resetBlock s).Inv := by
  rw [resetBlock_eq]
  exact invariantHoldsAtReset.setMem (Memory.wf_resetBlock h.wf_mem)

theorem State.Inv.takeEvent {s u : State} (h : s.Inv) {e : Event} (hu : takeEvent e s = .next u) : u.Inv := by
  cases e with
  | write bits offset v => cases hu; exact h.hostWrite bits offset v
  | read bits offset => cases hu; exact h.hostRead bits offset
  | engine => exact h.engineStep hu
  | reset => cases hu; exact h.resetBlock
  | sampleWrite a v => rw [storeSample_next hu]; exact h.setMem (Memory.wf_setByte h.wf_mem a v)

/-- Settles O54: every kind of move keeps the invariant. -/
theorem everyStepKeepsTheInvariant : Obligations.EveryStepKeepsTheInvariant := by
  intro s u h hu
  rcases step_cases hu with ⟨-, hu⟩ | ⟨e, rest, -, hu⟩
  · exact h.engineStep hu
  · exact (h.setEvents rest).takeEvent hu

end Sys2Proof.Machine
end

section
/-!
SUPPORT. Words and their fields (10_state.md R23 to R39), the slots of the window at their offsets, and the rules of one host
access while the block is idle.
-/

namespace Sys2Proof.Machine

/-! Fields of a word -/

/-- A field of a word, put back at its place, is the word under the field's mask. -/
theorem fieldAt_extractLsb' (v : Word) (k n : Nat) : fieldAt k (v.extractLsb' k n) = v &&& fieldAt k (BitVec.allOnes n) := by
  ext i hi
  simp only [fieldAt, BitVec.getElem_shiftLeft, BitVec.getElem_and, BitVec.getElem_setWidth, BitVec.getLsbD_extractLsb',
    BitVec.getLsbD_allOnes]
  by_cases hk : i < k
  · simp [hk]
  · simp [hk, Nat.add_sub_cancel' (Nat.le_of_not_lt hk), BitVec.getLsbD_eq_getElem hi, Bool.and_comm]

theorem bitAt_getLsbD (v : Word) (k : Nat) : bitAt k (v.getLsbD k) = v &&& fieldAt k (BitVec.allOnes 1) := by
  rw [← fieldAt_extractLsb', bitAt, fieldAt]
  congr 2
  ext i hi
  simp [show i = 0 by omega]

theorem setWidth_setWidth_word (v : Word) (n : Nat) : (v.setWidth n).setWidth 32 = v &&& fieldAt 0 (BitVec.allOnes n) := by
  ext i hi
  simp [fieldAt, BitVec.getLsbD_eq_getElem hi, Bool.and_comm]

theorem extractLsb'_toNat_word {m : Nat} (v : BitVec m) (k n : Nat) : (v.extractLsb' k n).toNat = v.toNat / 2 ^ k % 2 ^ n := by
  rw [BitVec.extractLsb'_toNat, Nat.shiftRight_eq_div_pow]

theorem getLsbD_iff_toNat (v : Word) (k : Nat) : v.getLsbD k = true ↔ v.toNat / 2 ^ k % 2 = 1 := by
  rw [← BitVec.testBit_toNat, Nat.testBit_eq_decide_div_mod_eq, decide_eq_true_eq]

/-- The bits that each RW register or bank word keeps of a written word (10_state.md R24 to R39); none for the other slots. -/
def Slot.fieldMask : Slot → Option Word
  | .ctrl => some 0x00000003
  | .cfg => some 0x00000073
  | .seed | .prngState | .width | .rowNum => some 0x0000FFFF
  | .shifts => some 0x00003333
  | .numPoints => some 0x000F0F0F
  | .uvU | .uvV => some 0x01FFFFFF
  | .height => some 0x0000003F
  | .dstAddr | .srcAddr | .stride | .lumaAddr | .lumaStride => some 0xFFFFFFFF
  | .arY i => if i < 6 then some 0xFFFFFFFF else none
  | .arU i | .arV i => if i < 8 then some 0xFFFFFFFF else none
  | .yPoints i => if i < 7 then some 0xFFFFFFFF else none
  | .uPoints i | .vPoints i => if i < 5 then some 0xFFFFFFFF else none
  | .status | .cmd | .faultInfo | .faultAddr | .prngOut | .grain _ | .scaling _ | .reserved => none

theorem Ctrl.word_ofWord (v : Word) : (Ctrl.ofWord v).word = v &&& 0x00000003 := by
  simp only [Ctrl.word, Ctrl.ofWord, bitAt_getLsbD, ← BitVec.and_or_distrib_left]
  rfl

theorem Cfg.word_ofWord (v : Word) : (Cfg.ofWord v).word = v &&& 0x00000073 := by
  simp only [Cfg.word, Cfg.ofWord, bitAt_getLsbD, fieldAt_extractLsb', ← BitVec.and_or_distrib_left]
  rfl

theorem Shifts.word_ofWord (v : Word) : (Shifts.ofWord v).word = v &&& 0x00003333 := by
  simp only [Shifts.word, Shifts.ofWord, fieldAt_extractLsb', ← BitVec.and_or_distrib_left]
  rfl

theorem NumPoints.word_ofWord (v : Word) : (NumPoints.ofWord v).word = v &&& 0x000F0F0F := by
  simp only [NumPoints.word, NumPoints.ofWord, fieldAt_extractLsb', ← BitVec.and_or_distrib_left]
  rfl

theorem UvReg.word_ofWord (v : Word) : (UvReg.ofWord v).word = v &&& 0x01FFFFFF := by
  simp only [UvReg.word, UvReg.ofWord, fieldAt_extractLsb', ← BitVec.and_or_distrib_left]
  rfl

theorem bankWord_setBankWord_self {n : Nat} {i : Nat} (h : i < n) (bank : Vector Word n) (v : Word) :
    bankWord (setBankWord bank i v) i = v := by
  simp [bankWord, setBankWord, h]

theorem bankWord_setBankWord_of_ne {n : Nat} {i j : Nat} (h : j ≠ i) (bank : Vector Word n) (v : Word) :
    bankWord (setBankWord bank i v) j = bankWord bank j := by
  unfold bankWord setBankWord
  by_cases hi : i < n
  · by_cases hj : j < n
    · simp only [dif_pos hi, dif_pos hj]
      exact Vector.getElem_set_ne hi hj h.symm
    · rw [dif_neg hj, dif_neg hj]
  · rw [dif_neg hi]

/-! Slots -/

theorem and_allOnes_word (v : Word) : v &&& 0xFFFFFFFF = v := BitVec.and_allOnes

/-- A bank word that exists reads back as written. -/
theorem bankWord_readBack {n i : Nat} {m : Word} (h : (if i < n then some (0xFFFFFFFF : Word) else none) = some m)
    (bank : Vector Word n) (v : Word) : some (bankWord (setBankWord bank i v) i) = some (v &&& m) := by
  split at h
  · next hi => cases h; rw [bankWord_setBankWord_self hi, and_allOnes_word]
  · cases h

/-- What an RW register or bank word reads once a word is written to it (10_state.md R24 to R39). -/
theorem readSlot_writeSlot_self {sl : Slot} {m : Word} (h : sl.fieldMask = some m) (s : State) (v : Word) :
    readSlot (writeSlot s v sl) sl = some (v &&& m) := by
  cases sl with
  | ctrl => cases h; exact congrArg some (Ctrl.word_ofWord v)
  | cfg => cases h; exact congrArg some (Cfg.word_ofWord v)
  | shifts => cases h; exact congrArg some (Shifts.word_ofWord v)
  | numPoints => cases h; exact congrArg some (NumPoints.word_ofWord v)
  | uvU | uvV => cases h; exact congrArg some (UvReg.word_ofWord v)
  | seed | prngState | width | rowNum => cases h; exact congrArg some (setWidth_setWidth_word v 16)
  | height => cases h; exact congrArg some (setWidth_setWidth_word v 6)
  | dstAddr | srcAddr | stride | lumaAddr | lumaStride => cases h; exact congrArg some (and_allOnes_word v).symm
  | arY i | arU i | arV i | yPoints i | uPoints i | vPoints i => exact bankWord_readBack h _ v
  | status | cmd | faultInfo | faultAddr | prngOut | grain i | scaling i | reserved => cases h

/-- Where a slot stands in the window (10_state.md R23); `reserved` stands nowhere in particular. -/
def Slot.place : Slot → Nat
  | .ctrl => 0x000 | .status => 0x004 | .cmd => 0x008 | .faultInfo => 0x00C | .faultAddr => 0x010 | .cfg => 0x014
  | .seed => 0x018 | .shifts => 0x01C | .numPoints => 0x020 | .uvU => 0x024 | .uvV => 0x028 | .prngState => 0x02C
  | .prngOut => 0x030 | .dstAddr => 0x040 | .srcAddr => 0x044 | .stride => 0x048 | .width => 0x04C | .height => 0x050
  | .rowNum => 0x054 | .lumaAddr => 0x058 | .lumaStride => 0x05C
  | .arY i => 0x100 + 4 * i | .arU i => 0x120 + 4 * i | .arV i => 0x140 + 4 * i | .yPoints i => 0x180 + 4 * i
  | .uPoints i => 0x1A0 + 4 * i | .vPoints i => 0x1C0 + 4 * i | .grain i => 0x10000 + 4 * i | .scaling i => 0x30000 + 4 * i
  | .reserved => 0

/-- What stands at an aligned offset stands at that offset. -/
theorem place_slotOf {o : BitVec 18} (ho : o.toNat % 4 = 0) (h : slotOf o ≠ .reserved) : (slotOf o).place = o.toNat := by
  by_cases hr : ∀ r ∈ registerSlots, r.1 ≠ o.toNat
  · rw [slotOf_of_not_register hr] at h ⊢
    split at h
    · next a ha =>
      have harray : ∀ a ∈ arraySlots, a.1 % 4 = 0 ∧ ∀ i, (a.2.2 i).place = a.1 + 4 * i := by
        simp [arraySlots, Slot.place]
      obtain ⟨hbase, hplace⟩ := harray a (List.mem_of_find?_eq_some ha)
      have hrange := List.find?_some ha
      simp only [Bool.and_eq_true, decide_eq_true_eq] at hrange
      rw [hplace]
      omega
    · exact absurd rfl h
  · push Not at hr
    obtain ⟨r, hr, hro⟩ := hr
    have hregister : ∀ r ∈ registerSlots, r.2.place = r.1 := by decide
    have hoffset : o = BitVec.ofNat 18 r.1 := by rw [hro, BitVec.ofNat_toNat, BitVec.setWidth_eq]
    rw [← hro, ← hregister r hr, ← slotOf_register r hr, ← hoffset]

/-- No two aligned offsets share a slot, but for the reserved ones (10_state.md R23). -/
theorem slotOf_injective {o o' : BitVec 18} (ho : o.toNat % 4 = 0) (ho' : o'.toNat % 4 = 0) (h : slotOf o ≠ .reserved)
    (heq : slotOf o' = slotOf o) : o' = o :=
  BitVec.eq_of_toNat_eq (by rw [← place_slotOf ho h, ← place_slotOf ho' (heq ▸ h), heq])

/-- A write leaves what every other slot reads as it was, unless it goes to STATUS or CMD (20_memory.md R64). -/
theorem readSlot_writeSlot_of_ne {sl sl' : Slot} (h : sl' ≠ sl) (hst : sl ≠ .status) (hcmd : sl ≠ .cmd) (s : State) (v : Word) :
    readSlot (writeSlot s v sl) sl' = readSlot s sl' := by
  cases sl with
  | status => exact absurd rfl hst
  | cmd => exact absurd rfl hcmd
  | faultInfo | faultAddr | prngOut | reserved => rfl
  | arY i | arU i | arV i | yPoints i | uPoints i | vPoints i =>
    cases sl' <;> simp_all [readSlot, writeSlot, bankWord_setBankWord_of_ne]
  | grain i | scaling i => cases sl' <;> simp_all [readSlot, writeSlot, Cells.get_set]
  | _ => cases sl' <;> simp [readSlot, writeSlot] at h ⊢

theorem writeSlot_leaves {sl : Slot} (hst : sl ≠ .status) (hcmd : sl ≠ .cmd) (s : State) (v : Word) :
    (writeSlot s v sl).status = s.status ∧ (writeSlot s v sl).command = s.command ∧ (writeSlot s v sl).drawn = s.drawn := by
  cases sl with
  | status => exact absurd rfl hst
  | cmd => exact absurd rfl hcmd
  | _ => exact ⟨rfl, rfl, rfl⟩

@[simp] theorem readSlot_setEvents (s : State) (es : List Event) (sl : Slot) : readSlot (s.setEvents es) sl = readSlot s sl := by
  cases sl <;> rfl

@[simp] theorem readSlot_respond (s : State) (r : Response) (sl : Slot) : readSlot (s.respond r) sl = readSlot s sl := by
  cases sl <;> rfl

/-! One host access -/

theorem toNat_offset {n : Nat} (h : n < 2 ^ 18) : (BitVec.ofNat 18 n).toNat = n := by
  rw [BitVec.toNat_ofNat, Nat.mod_eq_of_lt h]

section

variable {s : State} {o : BitVec 18} {v w : Word} {rest : List Event} {sl : Slot}

/-- The step of a write that is not dropped (20_memory.md R64, 60_exceptions.md R206). -/
theorem step_write (he : s.events = .write 32 o v :: rest) (ho : o.toNat % 4 = 0) (hsl : slotOf o = sl)
    (h : s.status.busy = false ∨ sl = .ctrl ∨ sl = .status) :
    step s = .next ((writeSlot (s.setEvents rest) v sl).respond .written) := by
  subst hsl
  rw [step_of_event he]
  exact congrArg Host.Outcome.next (hostWrite_taken (s := s.setEvents rest) ho h v)

/-- The step of a read of a slot that holds a value (20_memory.md R64, R65). -/
theorem step_read (he : s.events = .read 32 o :: rest) (ho : o.toNat % 4 = 0) (hsl : slotOf o = sl)
    (h : s.status.busy = false ∨ sl.readableWhileBusy = true) (hv : readSlot s sl = some w) :
    step s = .next ((s.setEvents rest).respond (.data w)) := by
  subst hsl
  rw [step_of_event he]
  exact congrArg Host.Outcome.next (hostRead_value (s := s.setEvents rest) ho h (by rw [readSlot_setEvents, hv]))

/-- While the block is idle, a write and the read of the same offset answer what the slot reads once it is written. -/
theorem step_write_read (hidle : s.status.busy = false) (he : s.events = .write 32 o v :: .read 32 o :: rest)
    (ho : o.toNat % 4 = 0) (hsl : slotOf o = sl) (hst : sl ≠ .status) (hcmd : sl ≠ .cmd)
    (hback : ∀ s, readSlot (writeSlot s v sl) sl = some w) :
    ∃ t u, step s = .next t ∧ t = (writeSlot (s.setEvents (.read 32 o :: rest)) v sl).respond .written ∧
      step t = .next u ∧ u.response = .data w := by
  obtain ⟨hstatus, -, -⟩ := writeSlot_leaves hst hcmd (s.setEvents (.read 32 o :: rest)) v
  obtain ⟨-, hevents, -⟩ := writeSlot_keeps (s.setEvents (.read 32 o :: rest)) v sl
  exact ⟨_, _, step_write he ho hsl (Or.inl hidle), rfl,
    step_read hevents ho hsl (Or.inl ((congrArg Status.busy hstatus).trans hidle)) ((readSlot_respond _ _ _).trans (hback _)),
    rfl⟩

end

/-! The statements -/

/-- Settles O38: the mask of every slot of the list is its register's, and a read of a written slot is the word under it. -/
theorem registersReadBackTheirFields : Obligations.RegistersReadBackTheirFields := by
  intro s v rest c hc hidle he
  obtain ⟨haligned, hmask⟩ : (BitVec.ofNat 18 c.1).toNat % 4 = 0 ∧ (slotOf (BitVec.ofNat 18 c.1)).fieldMask = some c.2 := by
    clear he
    revert c
    decide +kernel
  obtain ⟨t, u, ht, -, hu, hdata⟩ := step_write_read hidle he haligned rfl (fun h => by simp [h, Slot.fieldMask] at hmask)
    (fun h => by simp [h, Slot.fieldMask] at hmask) (fun s => readSlot_writeSlot_self hmask s v)
  exact ⟨t, u, ht, hu, hdata⟩

@[simp] theorem Cells.get_set_self {n : Nat} (m : Cells n) (k : Nat) (c : BitVec n) : Cells.get (Cells.set m k c) k = some c := by
  rw [Cells.get_set, if_pos rfl]

theorem readSlot_writeSlot_grain (s : State) (v : Word) (k : Nat) :
    readSlot (writeSlot s v (.grain k)) (.grain k) = some ((v.setWidth 16).signExtend 32) := by
  simp [readSlot, writeSlot]

theorem readSlot_writeSlot_scaling (s : State) (v : Word) (k : Nat) :
    readSlot (writeSlot s v (.scaling k)) (.scaling k) = some (v &&& 0xFF) := by
  have hlow : (v.setWidth 8).setWidth 32 = v &&& 0xFF := setWidth_setWidth_word v 8
  simpa [readSlot, writeSlot] using hlow

/-- Settles O40: the slot of the offset is the cell's, and it holds what is written. -/
theorem tableWindowsReadBack : Obligations.TableWindowsReadBack := by
  intro s v rest hidle
  constructor
  · intro p r c hp hr hc o he
    have ho : o.toNat = 0x10000 + 4 * grainIndex p r c := toNat_offset (by omega)
    obtain ⟨-, -, -, -, -, -, hgrain, -⟩ := slotOf_array (o := o) (i := grainIndex p r c)
    have hsl := hgrain ho (by unfold grainIndex grainCells; omega)
    obtain ⟨t, u, ht, rfl, hu, hdata⟩ := step_write_read hidle he (by omega) hsl nofun nofun
      (fun s => readSlot_writeSlot_grain s v _)
    exact ⟨_, u, ht, hu, by simp [grainAt, writeSlot], hdata⟩
  · intro k e hk he' o he
    have ho : o.toNat = 0x30000 + 4 * scalingIndex k e := toNat_offset (by omega)
    obtain ⟨-, -, -, -, -, -, -, hscaling⟩ := slotOf_array (o := o) (i := scalingIndex k e)
    have hsl := hscaling ho (by unfold scalingIndex scalingCells; omega)
    obtain ⟨t, u, ht, rfl, hu, hdata⟩ := step_write_read hidle he (by omega) hsl nofun nofun
      (fun s => readSlot_writeSlot_scaling s v _)
    exact ⟨_, u, ht, hu, by simp [scalingAt, writeSlot], hdata⟩

/-- Settles O59: each of the four offsets has its register's slot, and writing the first three is the identity. -/
theorem readOnlyRegistersReadTheirValueAndIgnoreWrites : Obligations.ReadOnlyRegistersReadTheirValueAndIgnoreWrites := by
  intro s v rest hidle
  constructor
  · intro c hc he
    simp only [List.mem_cons, List.not_mem_nil, or_false] at hc
    rcases hc with rfl | rfl | rfl | rfl
    · exact step_read (o := 0x030) he (by decide) (slotOf_register (0x030, .prngOut) (by decide)) (Or.inl hidle) rfl
    · exact step_read (o := 0x00C) he (by decide) (slotOf_register (0x00C, .faultInfo) (by decide)) (Or.inl hidle) rfl
    · exact step_read (o := 0x010) he (by decide) (slotOf_register (0x010, .faultAddr) (by decide)) (Or.inl hidle) rfl
    · exact step_read (o := 0x008) he (by decide) (slotOf_register (0x008, .cmd) (by decide)) (Or.inl hidle) rfl
  · intro o ho he
    simp only [List.mem_cons, List.not_mem_nil, or_false] at ho
    rcases ho with rfl | rfl | rfl
    · exact step_write he (by decide) (slotOf_register (0x030, .prngOut) (by decide)) (Or.inl hidle)
    · exact step_write he (by decide) (slotOf_register (0x00C, .faultInfo) (by decide)) (Or.inl hidle)
    · exact step_write he (by decide) (slotOf_register (0x010, .faultAddr) (by decide)) (Or.inl hidle)

theorem slotOf_ne_register {o : BitVec 18} (ho : o.toNat % 4 = 0) {r : Nat × Slot} (hr : r ∈ registerSlots)
    (h : o ≠ BitVec.ofNat 18 r.1) : slotOf o ≠ r.2 := by
  have hregister : ∀ r ∈ registerSlots, (BitVec.ofNat 18 r.1).toNat % 4 = 0 ∧ r.2 ≠ .reserved := by decide
  obtain ⟨haligned, hreserved⟩ := hregister r hr
  rw [← slotOf_register r hr] at hreserved ⊢
  exact fun heq => h (slotOf_injective haligned ho hreserved heq)

/-- Settles O60: the other offsets have other slots, and a write changes what its own slot reads only. -/
theorem registerWritesLeaveTheOthersAlone : Obligations.RegisterWritesLeaveTheOthersAlone := by
  intro s v rest o hidle ho hst hcmd he
  have hst : slotOf o ≠ .status := slotOf_ne_register ho (r := (0x004, .status)) (by decide) hst
  have hcmd : slotOf o ≠ .cmd := slotOf_ne_register ho (r := (0x008, .cmd)) (by decide) hcmd
  obtain ⟨hmem, -, hparams, -⟩ := writeSlot_keeps (s.setEvents rest) v (slotOf o)
  obtain ⟨-, hcommand, hdrawn⟩ := writeSlot_leaves hst hcmd (s.setEvents rest) v
  refine ⟨_, step_write he ho rfl (Or.inl hidle), fun o' ho' hne => ?_, hmem, hcommand, hparams, hdrawn⟩
  rw [readSlot_respond]
  by_cases hreserved : slotOf o = .reserved
  · rw [hreserved, writeSlot, readSlot_setEvents]
  · rw [readSlot_writeSlot_of_ne (fun heq => hne (slotOf_injective ho ho' hreserved heq)) hst hcmd, readSlot_setEvents]

end Sys2Proof.Machine
end

section
/-!
SUPPORT. What a written word means to the commands (10_state.md R27 to R32, R36 to R38).
-/

namespace Sys2Proof.Machine

theorem Cfg.ofWord_toNat (v : Word) :
    (Cfg.ofWord v).bitdepth.toNat = v.toNat % 4 ∧ ((Cfg.ofWord v).overlap = true ↔ v.toNat / 16 % 2 = 1) ∧
      ((Cfg.ofWord v).clipRestricted = true ↔ v.toNat / 32 % 2 = 1) ∧ ((Cfg.ofWord v).csfl = true ↔ v.toNat / 64 % 2 = 1) := by
  simp only [Cfg.ofWord, getLsbD_iff_toNat, extractLsb'_toNat_word, Nat.reducePow, Nat.div_one, and_self]

theorem Shifts.ofWord_toNat (v : Word) :
    (Shifts.ofWord v).grainScaleShift.toNat = v.toNat % 4 ∧ (Shifts.ofWord v).scalingShiftM8.toNat = v.toNat / 16 % 4 ∧
      (Shifts.ofWord v).arCoeffShiftM6.toNat = v.toNat / 256 % 4 ∧ (Shifts.ofWord v).arLag.toNat = v.toNat / 4096 % 4 := by
  simp only [Shifts.ofWord, extractLsb'_toNat_word, Nat.reducePow, Nat.div_one, and_self]

theorem NumPoints.ofWord_toNat (v : Word) :
    (NumPoints.ofWord v).numY.toNat = v.toNat % 16 ∧ (NumPoints.ofWord v).numU.toNat = v.toNat / 256 % 16 ∧
      (NumPoints.ofWord v).numV.toNat = v.toNat / 65536 % 16 := by
  simp only [NumPoints.ofWord, extractLsb'_toNat_word, Nat.reducePow, Nat.div_one, and_self]

theorem UvReg.ofWord_toNat (v : Word) :
    (UvReg.ofWord v).mult.toNat = v.toNat % 256 ∧ (UvReg.ofWord v).lumaMult.toNat = v.toNat / 256 % 256 ∧
      (UvReg.ofWord v).offset.toNat = v.toNat / 65536 % 512 := by
  simp only [UvReg.ofWord, extractLsb'_toNat_word, Nat.reducePow, Nat.div_one, and_self]

/-- Coefficient `k` of a bank whose word is written: byte `k % 4` of the word, as a signed number (10_state.md R37). -/
theorem coefficient_setBankWord {n k : Nat} (hk : k / 4 < n) (bank : Vector Word n) (v : Word) :
    (coefficient (setBankWord bank (k / 4) v) k - (v.toNat / 256 ^ (k % 4) % 256 : Nat)) % 256 = 0 ∧
      -128 ≤ coefficient (setBankWord bank (k / 4) v) k ∧ coefficient (setBankWord bank (k / 4) v) k ≤ 127 := by
  have hbyte : (v.extractLsb' (8 * (k % 4)) 8).toNat = v.toNat / 256 ^ (k % 4) % 256 := by
    rw [extractLsb'_toNat_word, Nat.pow_mul]; rfl
  rw [coefficient, bankWord_setBankWord_self hk, ← hbyte]
  generalize v.extractLsb' (8 * (k % 4)) 8 = b
  refine ⟨Int.emod_eq_zero_of_dvd ?_, BitVec.le_toInt b, BitVec.toInt_le⟩
  rw [BitVec.toInt_eq_toNat_bmod]
  exact Int.dvd_bmod_sub_self

/-- Point `k` of a bank whose word is written: half `k % 2` of the word (10_state.md R38). -/
theorem pointOf_setBankWord {n k : Nat} (hk : k / 2 < n) (bank : Vector Word n) (v : Word) :
    (pointOf (setBankWord bank (k / 2) v) k).x = v.toNat / 65536 ^ (k % 2) % 256 ∧
      (pointOf (setBankWord bank (k / 2) v) k).y = v.toNat / 65536 ^ (k % 2) / 256 % 256 := by
  have hhalf : (v.extractLsb' (16 * (k % 2)) 16).toNat = v.toNat / 65536 ^ (k % 2) % 65536 := by
    rw [extractLsb'_toNat_word, Nat.pow_mul]; rfl
  simp only [pointOf, bankWord_setBankWord_self hk, extractLsb'_toNat_word (v.extractLsb' _ _), hhalf]
  omega

/-- Settles O39: a register by its slot and the fields of the word, a bank word by its slot and the field of the number. -/
theorem writtenWordsMeanTheirFields : Obligations.WrittenWordsMeanTheirFields := by
  intro s v rest o hidle he n means point
  have hslot : ∀ {sl : Slot}, o % 4 = 0 ∧ o < 2 ^ 18 → slotOf (BitVec.ofNat 18 o) = sl →
      hostWrite 32 (BitVec.ofNat 18 o) v (s.setEvents rest) = (writeSlot (s.setEvents rest) v sl).respond .written := by
    rintro sl ⟨haligned, hlt⟩ rfl
    exact hostWrite_taken (s := s.setEvents rest) (by rw [toNat_offset hlt, haligned]) (Or.inl hidle) v
  have hreg : ∀ r ∈ registerSlots, o = r.1 →
      hostWrite 32 (BitVec.ofNat 18 o) v (s.setEvents rest) = (writeSlot (s.setEvents rest) v r.2).respond .written := by
    have haligned : ∀ r ∈ registerSlots, r.1 % 4 = 0 ∧ r.1 < 2 ^ 18 := by decide
    rintro r hr rfl
    exact hslot (haligned r hr) (slotOf_register r hr)
  refine ⟨_, step_of_event he, ?_, ?_, ?_, ?_, ?_, ?_, ?_, ?_, ?_, ?_, ?_, ?_, ?_, ?_, ?_, ?_, ?_, ?_, ?_, ?_, ?_⟩
  · intro ho; rw [hreg (0x014, .cfg) (by decide) ho]; exact Cfg.ofWord_toNat v
  · intro ho; rw [hreg (0x018, .seed) (by decide) ho]; exact BitVec.toNat_setWidth 16 v
  · intro ho; rw [hreg (0x01C, .shifts) (by decide) ho]; exact Shifts.ofWord_toNat v
  · intro ho; rw [hreg (0x020, .numPoints) (by decide) ho]; exact NumPoints.ofWord_toNat v
  · intro ho; rw [hreg (0x024, .uvU) (by decide) ho]; exact UvReg.ofWord_toNat v
  · intro ho; rw [hreg (0x028, .uvV) (by decide) ho]; exact UvReg.ofWord_toNat v
  · intro ho; rw [hreg (0x02C, .prngState) (by decide) ho]; exact BitVec.toNat_setWidth 16 v
  · intro ho; rw [hreg (0x040, .dstAddr) (by decide) ho]; rfl
  · intro ho; rw [hreg (0x044, .srcAddr) (by decide) ho]; rfl
  · intro ho; rw [hreg (0x048, .stride) (by decide) ho]; rfl
  · intro ho; rw [hreg (0x04C, .width) (by decide) ho]; exact BitVec.toNat_setWidth 16 v
  · intro ho; rw [hreg (0x050, .height) (by decide) ho]; exact BitVec.toNat_setWidth 6 v
  · intro ho; rw [hreg (0x054, .rowNum) (by decide) ho]; exact BitVec.toNat_setWidth 16 v
  · intro ho; rw [hreg (0x058, .lumaAddr) (by decide) ho]; rfl
  · intro ho; rw [hreg (0x05C, .lumaStride) (by decide) ho]; rfl
  · intro k hk ho
    obtain ⟨harY, -⟩ := slotOf_array (o := BitVec.ofNat 18 o) (i := k / 4)
    rw [hslot (by omega) (harY ((toNat_offset (by omega)).trans ho) (by omega))]
    exact coefficient_setBankWord (by omega) _ v
  · intro k hk ho
    obtain ⟨-, harU, -⟩ := slotOf_array (o := BitVec.ofNat 18 o) (i := k / 4)
    rw [hslot (by omega) (harU ((toNat_offset (by omega)).trans ho) (by omega))]
    exact coefficient_setBankWord (by omega) _ v
  · intro k hk ho
    obtain ⟨-, -, harV, -⟩ := slotOf_array (o := BitVec.ofNat 18 o) (i := k / 4)
    rw [hslot (by omega) (harV ((toNat_offset (by omega)).trans ho) (by omega))]
    exact coefficient_setBankWord (by omega) _ v
  · intro k hk ho
    obtain ⟨-, -, -, hyPoints, -⟩ := slotOf_array (o := BitVec.ofNat 18 o) (i := k / 2)
    rw [hslot (by omega) (hyPoints ((toNat_offset (by omega)).trans ho) (by omega))]
    exact pointOf_setBankWord (by omega) _ v
  · intro k hk ho
    obtain ⟨-, -, -, -, huPoints, -⟩ := slotOf_array (o := BitVec.ofNat 18 o) (i := k / 2)
    rw [hslot (by omega) (huPoints ((toNat_offset (by omega)).trans ho) (by omega))]
    exact pointOf_setBankWord (by omega) _ v
  · intro k hk ho
    obtain ⟨-, -, -, -, -, hvPoints, -⟩ := slotOf_array (o := BitVec.ofNat 18 o) (i := k / 2)
    rw [hslot (by omega) (hvPoints ((toNat_offset (by omega)).trans ho) (by omega))]
    exact pointOf_setBankWord (by omega) _ v

end Sys2Proof.Machine
end

section
/-!
SUPPORT. STATUS, CMD and the interrupt line as the host meets them (10_state.md R25, R26, R43; 60_exceptions.md R200, R202, R209,
R210), and reset (70_reset_and_hazards.md R230, R231).
-/

namespace Sys2Proof.Machine

theorem slotOf_ctrl : slotOf 0x000 = .ctrl := slotOf_register (0x000, .ctrl) (by decide)

theorem slotOf_status : slotOf 0x004 = .status := slotOf_register (0x004, .status) (by decide)

theorem slotOf_cmd : slotOf 0x008 = .cmd := slotOf_register (0x008, .cmd) (by decide)

/-! CMD -/

theorem step_cmd_write_busy {s : State} {w : Word} {rest : List Event} (he : s.events = .write 32 0x008 w :: rest)
    (hbusy : s.status.busy = true) :
    step s = .next (((s.setEvents rest).recordFault .busyWrite 0x00000008 0).respond .written) := by
  rw [step_of_event he]
  exact congrArg Host.Outcome.next (hostWrite_dropped (s := s.setEvents rest) (by decide) hbusy (by decide) (by decide) w)

theorem step_cmd_write_idle {s : State} {w : Word} {rest : List Event} (he : s.events = .write 32 0x008 w :: rest)
    (hidle : s.status.busy = false) : step s = .next (((s.setEvents rest).issue w).respond .written) :=
  step_write he (by decide) slotOf_cmd (Or.inl hidle)

theorem State.recordFault_of_fault {s : State} (h : s.status.fault = true) (code : FaultCode) (info addr : Word) :
    s.recordFault code info addr = s := if_pos h

theorem State.recordFault_of_no_fault {s : State} (h : s.status.fault = false) (code : FaultCode) (info addr : Word) :
    s.recordFault code info addr =
      { s with status := { s.status with fault := true, faultCode := code }, faultInfo := info, faultAddr := addr } :=
  if_neg (by simp [h])

theorem State.issue_of_fault {s : State} (h : s.status.fault = true) (w : Word) : s.issue w = s := if_pos h

theorem State.issue_of_no_fault {s : State} (h : s.status.fault = false) (w : Word) : s.issue w = s.accept w :=
  if_neg (by simp [h])

/-- Settles O9, by BUSY and FAULT. -/
theorem cmdWriteIssuesDropsOrRefuses : Obligations.CmdWriteIssuesDropsOrRefuses := by
  intro s w rest he s0
  refine ⟨fun hbusy hfault => ?_, fun hbusy hfault => ?_, fun hidle hfault => ?_, fun hidle hfault => ?_⟩
  · rw [step_cmd_write_busy he hbusy, State.recordFault_of_fault (s := s.setEvents rest) hfault]; rfl
  · rw [step_cmd_write_busy he hbusy, State.recordFault_of_no_fault (s := s.setEvents rest) hfault]; rfl
  · rw [step_cmd_write_idle he hidle, State.issue_of_fault (s := s.setEvents rest) hfault]; rfl
  · rw [step_cmd_write_idle he hidle, State.issue_of_no_fault (s := s.setEvents rest) hfault]; rfl

/-! STATUS -/

theorem step_status_write {s : State} {v : Word} {rest : List Event} (he : s.events = .write 32 0x004 v :: rest) :
    step s = .next (((s.setEvents rest).writeStatus v).respond .written) :=
  step_write he (by decide) slotOf_status (Or.inr (Or.inr rfl))

/-- Settles O47: the write is taken in any state, and names its bits by their values. -/
theorem statusWritesClearWhatTheyName : Obligations.StatusWritesClearWhatTheyName := by
  intro s v rest he
  have hdone : v.getLsbD 1 = true ↔ v.toNat / 2 % 2 = 1 := getLsbD_iff_toNat v 1
  have hfault : v.getLsbD 2 = true ↔ v.toNat / 4 % 2 = 1 := getLsbD_iff_toNat v 2
  rw [step_status_write he, State.writeStatus_eq]
  simp only [hdone, hfault]
  rfl

/-- STATUS as a number (10_state.md R25). -/
theorem Status.word_toNat (st : Status) :
    st.word.toNat =
      (if st.busy then 1 else 0) + (if st.done then 2 else 0) + (if st.fault then 4 else 0) + 256 * st.faultCode.bits.toNat := by
  have hbits : ∀ (busy done fault : Bool) (code : BitVec 4),
      (bitAt 0 busy ||| bitAt 1 done ||| bitAt 2 fault ||| fieldAt 8 code).toNat =
        (if busy then 1 else 0) + (if done then 2 else 0) + (if fault then 4 else 0) + 256 * code.toNat := by
    decide
  exact hbits st.busy st.done st.fault st.faultCode.bits

/-- Settles O48: STATUS is read in any state, and its word is the sum of its bits. -/
theorem statusReadsItsBits : Obligations.StatusReadsItsBits := by
  intro s rest he code
  have hcode : s.status.faultCode.bits.toNat = code := by
    unfold code
    cases s.status.faultCode <;> rfl
  refine ⟨s.status.word, step_read he (by decide) slotOf_status (Or.inr rfl) rfl, ?_⟩
  rw [Status.word_toNat, hcode]

/-! The interrupt line -/

theorem State.irq_iff (s : State) :
    s.irq = true ↔ (s.status.done = true ∧ s.ctrl.irqEnDone = true) ∨ (s.status.fault = true ∧ s.ctrl.irqEnFault = true) := by
  simp [State.irq]

theorem step_ctrl_write {s : State} {v : Word} {rest : List Event} (he : s.events = .write 32 0x000 v :: rest) :
    step s = .next ((writeSlot (s.setEvents rest) v .ctrl).respond .written) :=
  step_write he (by decide) slotOf_ctrl (Or.inr (Or.inl rfl))

/-- Settles O49: each move's next state, read by the two terms of the line. -/
theorem interruptLineFollowsStatusAndEnables : Obligations.InterruptLineFollowsStatusAndEnables := by
  intro s
  refine ⟨fun t ht => ?_, fun v rest t he hdone hfault ht => ?_, fun v rest t he ht => ?_⟩
  · cases ht
    simp [State.irq_iff]
  · rw [statusWritesClearWhatTheyName s v rest he] at ht
    cases ht
    simp [State.irq, hdone, hfault]
  · rw [step_ctrl_write he] at ht
    cases ht
    have hdone : v.getLsbD 0 = true ↔ v.toNat % 2 = 1 := by
      rw [getLsbD_iff_toNat, Nat.pow_zero, Nat.div_one]
    have hfault : v.getLsbD 1 = true ↔ v.toNat / 2 % 2 = 1 := getLsbD_iff_toNat v 1
    rw [State.irq_iff, ← hdone, ← hfault]
    rfl

/-! Reset -/

/-- Settles O50: an APPLY command in progress leaves every byte outside its dst footprint alone. -/
theorem resetClearsTheBlock : Obligations.ResetClearsTheBlock := by
  intro s rest he
  refine ⟨_, step_of_event he, resetBlock_eq (s.setEvents rest), resetBlock_mem_of_none (s := s.setEvents rest), ?_⟩
  intro lay uv hrun a ha
  rw [resetBlock_mem_of_some (s := s.setEvents rest) hrun]
  exact byteAt_unspecify_of_not_mem (s := s.setEvents rest) ha

theorem bankWord_replicate_zero (n i : Nat) : bankWord (Vector.replicate n 0#32) i = 0#32 := by
  simp [bankWord]

theorem coefficient_replicate_zero (n k : Nat) : coefficient (Vector.replicate n 0#32) k = 0 := by
  simp [coefficient, bankWord_replicate_zero]

theorem pointOf_replicate_zero (n k : Nat) : pointOf (Vector.replicate n 0#32) k = ⟨0, 0⟩ := by
  simp [pointOf, bankWord_replicate_zero]

/-- Settles O51: the registers by their reset values, the banks word by word. -/
theorem resetValuesAreZero : Obligations.ResetValuesAreZero := by
  refine ⟨rfl, rfl, rfl, rfl, rfl, rfl, rfl, rfl, rfl, rfl, rfl, rfl, rfl, rfl, rfl, rfl, rfl, rfl, rfl, rfl, ?_, ?_, ?_, ?_,
    rfl⟩
  · exact fun k => ⟨coefficient_replicate_zero 6 k, coefficient_replicate_zero 8 k, coefficient_replicate_zero 8 k⟩
  · exact fun k => ⟨pointOf_replicate_zero 7 k, pointOf_replicate_zero 5 k, pointOf_replicate_zero 5 k⟩
  · exact fun p r c => rfl
  · exact fun t e => rfl

end Sys2Proof.Machine
end

section
/-!
SUPPORT. Host accesses of the register window: their width and alignment, reserved offsets, reads, and what a move leaves alone
while a command is accepted (20_memory.md R61 to R65, R77, R82).
-/

namespace Sys2Proof.Machine

variable {s t : State}

/-! Accesses the block does not take (20_memory.md R61, R63) -/

/-- Settles O42: neither a write nor a read of an illegal access does more than answer the bus error. -/
theorem malformedHostAccessesGetABusError : Obligations.MalformedHostAccessesGetABusError := by
  intro s bits o v rest hbad he
  have hillegal : accessLegal bits o = false := by
    rw [← Bool.not_eq_true, accessLegal_iff]
    omega
  obtain ⟨hwrite, hread⟩ := host_access_illegal hillegal v (s.setEvents rest)
  rcases he with he | he
  · rw [step_of_event he]
    exact congrArg Host.Outcome.next hwrite
  · rw [step_of_event he]
    exact congrArg Host.Outcome.next hread

/-- Settles O41: the slot of such an offset is the reserved one, which reads 0 and whose write is the identity. -/
theorem reservedOffsetsReadZeroAndIgnoreWrites : Obligations.ReservedOffsetsReadZeroAndIgnoreWrites := by
  intro s v rest o ho hidle hgap
  have hreserved : slotOf o = .reserved := slotOf_reserved ho hgap
  exact ⟨fun he => step_read he ho hreserved (Or.inl hidle) rfl, fun he => step_write he ho hreserved (Or.inl hidle)⟩

/-! Reads (20_memory.md R64, R65) -/

/-- Settles O43, by what a read can do. -/
theorem hostReadsHaveNoSideEffect : Obligations.HostReadsHaveNoSideEffect := by
  intro s bits o rest he
  exact ⟨_, step_of_event he, hostRead_eq bits o (s.setEvents rest)⟩

/-- Settles O44: the four registers are readable while BUSY = 1, and every well-formed read answers a word. -/
theorem busyReadsReturnStatusRegisters : Obligations.BusyReadsReturnStatusRegisters := by
  intro s o rest hbusy ho he
  refine ⟨?_, ?_, ?_, ?_, ?_⟩
  · rintro rfl
    exact step_read he ho slotOf_ctrl (Or.inr rfl) rfl
  · rintro rfl
    exact step_read he ho slotOf_status (Or.inr rfl) rfl
  · rintro rfl
    exact step_read he ho (slotOf_register (0x00C, .faultInfo) (by decide)) (Or.inr rfl) rfl
  · rintro rfl
    exact step_read he ho (slotOf_register (0x010, .faultAddr) (by decide)) (Or.inr rfl) rfl
  · obtain ⟨v, hv⟩ := hostRead_data ho (s.setEvents rest)
    exact ⟨v, _, step_of_event he, hv⟩

/-! What a move leaves alone while a command is accepted (20_memory.md R77, R82) -/

/-- What the accepted command sees of a state `s` is what it sees of `t`: the registers it reads, the generator, the RAMs, the
command and the platform, with BUSY as it was. -/
structure SameForCommand (s t : State) : Prop where
  frame     : t.frame = s.frame
  job       : t.job = s.job
  prngState : t.prngState = s.prngState
  prngOut   : t.prngOut = s.prngOut
  grain     : t.grain = s.grain
  scaling   : t.scaling = s.scaling
  command   : t.command = s.command
  busy      : t.status.busy = s.status.busy
  params    : t.params = s.params

theorem SameForCommand.recordFault (s : State) (code : FaultCode) (info addr : Word) :
    SameForCommand s (s.recordFault code info addr) := by
  rw [State.recordFault_eq]
  constructor <;> rfl

theorem SameForCommand.writeStatus (s : State) (v : Word) : SameForCommand s (s.writeStatus v) := by
  rw [State.writeStatus_eq]
  constructor <;> rfl

theorem SameForCommand.respond (h : SameForCommand s t) (r : Response) : SameForCommand s (t.respond r) :=
  ⟨h.frame, h.job, h.prngState, h.prngOut, h.grain, h.scaling, h.command, h.busy, h.params⟩

/-- While BUSY = 1 a write is a bus error, a recorded BUSY_WRITE, or a write of CTRL or STATUS. -/
theorem SameForCommand.hostWrite (hbusy : s.status.busy = true) (bits : Nat) (o : BitVec 18) (v : Word) :
    SameForCommand s (hostWrite bits o v s) := by
  rcases hostWrite_cases bits o v s with ⟨-, hw⟩ | ⟨-, -, hw⟩ | ⟨hslot, hw⟩ <;> rw [hw]
  · constructor <;> rfl
  · exact (recordFault s _ _ _).respond _
  · rcases hslot hbusy with hctrl | hstatus
    · rw [hctrl]
      constructor <;> rfl
    · rw [hstatus]
      exact (writeStatus s v).respond _

theorem SameForCommand.hostRead (s : State) (bits : Nat) (o : BitVec 18) : SameForCommand s (hostRead bits o s) := by
  rw [hostRead_eq]
  constructor <;> rfl

theorem SameForCommand.takeEvent (hbusy : s.status.busy = true) {e : Event} (hengine : e ≠ .engine) (hreset : e ≠ .reset)
    (h : takeEvent e s = .next t) : SameForCommand s t := by
  cases e with
  | write bits offset v => cases h; exact hostWrite hbusy bits offset v
  | read bits offset => cases h; exact hostRead s bits offset
  | engine => exact absurd rfl hengine
  | reset => exact absurd rfl hreset
  | sampleWrite a v => rw [storeSample_next h]; constructor <;> rfl

/-- Settles O46, by the kinds of move. -/
theorem commandsSeeTheStateAtTheirIssue : Obligations.CommandsSeeTheStateAtTheirIssue := by
  intro s t e rest hbusy he hengine hreset h
  rw [step_of_event he] at h
  obtain ⟨hframe, hjob, hprngState, hprngOut, hgrain, hscaling, hcommand, hbusy', hparams⟩ :=
    SameForCommand.takeEvent (s := s.setEvents rest) hbusy hengine hreset h
  exact ⟨hframe, hjob, hprngState, hprngOut, hgrain, hscaling, hcommand, hbusy'.trans hbusy, hparams⟩

end Sys2Proof.Machine
end

section
/-!
SUPPORT. Sample memory: the accesses of an APPLY command in their order, its footprints, and the stores of other masters
(20_memory.md R69 to R77, 60_exceptions.md R202 to R207, 70_reset_and_hazards.md R240).
-/

namespace Sys2Proof.Machine

variable {i : Instr} {s : State} {lay : Layout} {uv : Bool} {p t X y : Nat} {a : Word}

/-! What an APPLY command writes (20_memory.md R72) -/

/-- An APPLY sample that goes through is written to its dst address. -/
theorem applySample_addr {w : SampleWrite} (h : s.applySample i X y = .ok w) : w.addr = s.dstAddr X y := by
  cases i with
  | applyY => exact lumaSample_addr h
  | applyUV420 plane isId => exact chromaSample_addr h
  | applyUV422 plane isId => exact chromaSample_addr h
  | applyUV444 plane isId => exact chromaSample_addr h
  | _ => cases h

/-- The collected samples of a band write no byte outside its dst footprint. -/
theorem not_mem_byteAddrs_of_not_mem_dstBytes {ws : List SampleWrite} (hb : 0 < lay.blockW)
    (hws : collectSamples (s.applySample i) (bandSamples lay s.pw s.bh) = .ok ws) (ha : a ∉ s.dstBytes lay) :
    ∀ w ∈ ws, a ∉ byteAddrs w.addr s.frame.cfg.container := by
  intro w hw hmem
  obtain ⟨⟨X, y⟩, hc, hsample⟩ := mem_collectSamples hws hw
  obtain ⟨hX, hy⟩ := (mem_bandSamples hb).mp hc
  rw [applySample_addr hsample] at hmem
  exact ha ((mem_dstBytes hb).mpr ⟨X, y, hX, hy, hmem⟩)

/-- Settles O30, by the ways an APPLY command can end. -/
theorem applyLeavesAllButItsDstFootprint : Obligations.ApplyLeavesAllButItsDstFootprint := by
  intro i s u lay uv p t hf h
  rw [exec_apply hf] at h
  rcases applyBand_next h with rfl | rfl | ⟨ws, hws, rfl⟩ | ⟨code, addr, -, rfl⟩
  · exact ⟨rfl, fun _ _ => rfl⟩
  · exact ⟨rfl, fun _ _ => rfl⟩
  · refine ⟨rfl, fun a ha => ?_⟩
    have hb := Layout.blockW_pos (applyForm_layout hf)
    exact byteAt_writeSamples_of_not_mem (not_mem_byteAddrs_of_not_mem_dstBytes hb hws ha) s.mem
  · exact ⟨rfl, fun a ha => byteAt_unspecify_of_not_mem ha⟩

/-! The first access that fails (20_memory.md R69, R70, 60_exceptions.md R207) -/

theorem readSample_of_not_ok (h : memOk s.params a s.frame.cfg.container .read = false) :
    s.readSample a = .error (.hardware .busError a) := by
  rw [readSample_eq, if_neg (by simp [h])]

theorem readSample_of_out_of_range (h : memOk s.params a s.frame.cfg.container .read = true)
    (hrange : s.frame.cfg.sampleMax < memRead s.mem a s.frame.cfg.container) :
    s.readSample a = .error (.hardware .sampleRange a) := by
  rw [readSample_eq, if_pos h]
  exact if_pos hrange

theorem sampleWrite_of_not_ok (h : memOk s.params a s.frame.cfg.container .write = false) (v : Int) :
    s.sampleWrite a v = .error (.hardware .busError a) := if_neg (by simp [h])

/-- The reads of a sample are good: its source sample, its luma sample, and the next one where luma is averaged. -/
theorem readsGood_iff :
    s.readsGood lay uv X y = true ↔ s.sampleGood (s.srcAddr X y) = true ∧
      (uv = true → s.sampleGood (s.lumaAddr (X * 2 ^ lay.sx) (y * 2 ^ lay.sy)) = true ∧
        (lay.sx = 1 → s.sampleGood (s.lumaAddr (X * 2 ^ lay.sx + 1) (y * 2 ^ lay.sy)) = true)) := by
  unfold State.readsGood State.readAddrs State.lumaAddrs
  simp only [Nat.shiftLeft_eq]
  cases uv
  · simp
  · by_cases hsx : lay.sx = 1 <;> simp [hsx]

/-- Command `i` ends in `s` with the hardware fault `code` at `addr`; only sample memory and the free values change besides. -/
def State.reports (s : State) (i : Instr) (code : FaultCode) (addr : Word) : Prop :=
  ∃ u, exec i s = .next u ∧ u = { (s.afterFault code (encode i) addr) with mem := u.mem, drawn := u.drawn }

/-- (X, y) is a position of the band of `i`, and nothing stops the command before it (60_exceptions.md R207). -/
structure State.Reaches (s : State) (i : Instr) (lay : Layout) (uv : Bool) (X y : Nat) : Prop where
  admitted : s.bandAdmitted lay uv = true
  column   : X < s.pw
  row      : y < s.bh
  before   : ∀ X' y', X' < s.pw → y' < s.bh → earlier lay X' y' X y → s.positionGood i X' y' = true

section

variable (hf : applyForm s i = some (lay, uv, p, t)) (hr : s.Reaches i lay uv X y)
include hf hr

/-- The hardware stop of the first position that does not go through is what the command reports. -/
theorem reports_of_hardware {code : FaultCode} (h : s.applySample i X y = .error (.hardware code a)) : s.reports i code a := by
  rw [State.reports, exec_apply_first_stop hf hr.admitted hr.column hr.row hr.before h]
  exact finishBand_hardware (encode i) lay s code a

/-- The source read comes first. -/
theorem reports_of_src_error {code : FaultCode} (h : s.readSample (s.srcAddr X y) = .error (.hardware code a)) :
    s.reports i code a :=
  reports_of_hardware hf hr (applySample_src_error hf h)

/-- The luma reads of a chroma sample come next. -/
theorem reports_of_luma_error (huv : uv = true) (hsrc : s.sampleGood (s.srcAddr X y) = true) {code : FaultCode}
    (h : s.lumaAverage lay X y = .error (.hardware code a)) : s.reports i code a := by
  subst huv
  exact reports_of_hardware hf hr (applySample_luma_error hf hsrc h)

/-- The dst write comes last. -/
theorem reports_of_dst_not_ok (hreads : s.readsGood lay uv X y = true) (hgrain : s.grainHeld lay p X y = true)
    (hlookup : s.lookupHeld t (s.lookupKey X y i) = true)
    (h : memOk s.params (s.dstAddr X y) s.frame.cfg.container .write = false) : s.reports i .busError (s.dstAddr X y) := by
  apply reports_of_hardware hf hr
  rw [applySample_of_good hf hreads, hgrain, hlookup]
  exact sampleWrite_of_not_ok h _

end

/-- Settles O31: a source read that fails stops its sample, which is the first to stop. -/
theorem firstFailingSourceReadIsReported : Obligations.FirstFailingSourceReadIsReported := by
  intro i s lay uv p t hf ha X y hX hy hbefore
  have hr : s.Reaches i lay uv X y := ⟨ha, hX, hy, hbefore⟩
  exact ⟨fun hbus => reports_of_src_error hf hr (readSample_of_not_ok hbus),
    fun hok hrange => reports_of_src_error hf hr (readSample_of_out_of_range hok hrange)⟩

/-- Settles O56: the luma reads and the dst write in the order of the accesses of one sample. -/
theorem failingLumaReadsAndDstWritesAreReported : Obligations.FailingLumaReadsAndDstWritesAreReported := by
  intro i s lay uv p t hf ha X y hX hy hbefore reported readOk outOfRange src luma next
  have hr : s.Reaches i lay uv X y := ⟨ha, hX, hy, hbefore⟩
  have hbus : ∀ a, ¬ readOk a → s.readSample a = .error (.hardware .busError a) :=
    fun a h => readSample_of_not_ok (Bool.not_eq_true _ ▸ h)
  refine ⟨fun huv hsrc => ⟨fun h => ?_, fun hok h => ?_⟩, fun huv hsx hsrc hluma => ⟨fun h => ?_, fun hok h => ?_⟩,
    fun hsrc hreads hgrain hlookup h => ?_⟩
  · exact reports_of_luma_error hf hr huv hsrc (lumaAverage_first_error (hbus luma h))
  · exact reports_of_luma_error hf hr huv hsrc (lumaAverage_first_error (readSample_of_out_of_range hok h))
  · exact reports_of_luma_error hf hr huv hsrc (lumaAverage_second_error hsx hluma (hbus next h))
  · exact reports_of_luma_error hf hr huv hsrc (lumaAverage_second_error hsx hluma (readSample_of_out_of_range hok h))
  · exact reports_of_dst_not_ok hf hr (readsGood_iff.mpr ⟨hsrc, hreads⟩) hgrain hlookup h

/-! Footprints (20_memory.md R72, R73, 70_reset_and_hazards.md R240) -/

/-- The footprints are allowed exactly when no dst byte lies where it must not. -/
theorem footprintOk_iff :
    s.footprintOk lay uv = true ↔ ¬ ∃ a, a ∈ s.dstBytes lay ∧
      (a ∈ s.lumaBytes lay uv ∨ (a - s.params.base).toNat < 0x40000 ∨
        (s.job.dstAddr ≠ s.job.srcAddr ∧ a ∈ s.srcBytes lay)) := by
  simp only [State.footprintOk, inWindow, Bool.and_eq_true, Bool.or_eq_true, List.all_eq_true, Bool.not_eq_true',
    List.contains_eq_mem, decide_eq_false_iff_not, beq_iff_eq, not_exists, not_and, not_or]
  constructor
  · rintro ⟨⟨hsrc, hluma⟩, hwindow⟩ a ha
    exact ⟨hluma a ha, hwindow a ha, fun hne => hsrc.resolve_left hne a ha⟩
  · intro h
    refine ⟨⟨or_iff_not_imp_left.mpr fun hne a ha => ?_, fun a ha => ?_⟩, fun a ha => ?_⟩ <;>
      obtain ⟨hluma, hwindow, hsrc⟩ := h a ha
    · exact hsrc hne
    · exact hluma
    · exact hwindow

/-- A side-effecting device stands in a footprint. -/
theorem ordinaryMemory_eq_false {r : AddrRange} (ha : a ∈ s.srcBytes lay ∨ a ∈ s.dstBytes lay ∨ a ∈ s.lumaBytes lay uv)
    (hr : r ∈ s.params.devices) (hfirst : r.first.toNat ≤ a.toNat) (hlast : a.toNat ≤ r.last.toNat) :
    s.ordinaryMemory lay uv = false := by
  have hmem : a ∈ s.srcBytes lay ++ s.dstBytes lay ++ s.lumaBytes lay uv := by
    simpa only [List.mem_append, or_assoc] using ha
  have hdevice : s.params.devices.any (fun r => AddrRange.holds r a) = true :=
    List.any_eq_true.mpr ⟨r, hr, by simp [AddrRange.holds, hfirst, hlast]⟩
  exact List.all_eq_false.mpr ⟨a, hmem, by simp [hdevice]⟩

/-- An APPLY command that passes its checks, by its footprints. -/
theorem exec_apply_of_geometryOk (hf : applyForm s i = some (lay, uv, p, t)) (hdepth : s.frame.cfg.bitdepth ≠ 3)
    (hgeometry : s.geometryOk lay uv = true) :
    (s.footprintOk lay uv = false → exec i s = .refused .footprintOverlap) ∧
      (s.footprintOk lay uv = true → s.ordinaryMemory lay uv = false → exec i s = .refused .deviceInFootprint) := by
  have hlegal := Cfg.depthIllegal_eq_false hdepth
  rw [exec_apply hf]
  exact ⟨fun hfoot => by simp [applyBand, hlegal, hgeometry, hfoot],
    fun hfoot hdevice => by simp [applyBand, hlegal, hgeometry, hfoot, hdevice]⟩

/-- Settles O33: the overlap is the failure of the footprint check, and the device fails the one after it. -/
theorem forbiddenFootprintsAreRefused : Obligations.ForbiddenFootprintsAreRefused := by
  intro i s lay uv p t hf hdepth hgeometry overlap device
  obtain ⟨hoverlap, hdevice⟩ := exec_apply_of_geometryOk hf hdepth hgeometry
  refine ⟨fun h => hoverlap ?_, fun hno ⟨a, r, ha, hr, hfirst, hlast⟩ => ?_⟩
  · rw [← Bool.not_eq_true]
    exact fun hok => footprintOk_iff.mp hok h
  · exact hdevice (footprintOk_iff.mpr hno) (ordinaryMemory_eq_false ha hr hfirst hlast)

/-! Stores of the host and of other masters (20_memory.md R77, 70_reset_and_hazards.md R240) -/

theorem applyLayout_eq (s : State) (i : Instr) : applyLayout i = (applyForm s i).map (fun form => (form.1, form.2.1)) := by
  cases i <;> rfl

theorem runningApply_of_no_command (h : s.command = none) : s.runningApply = none := by
  simp only [State.runningApply, h]

theorem runningApply_of_not_apply {w : Word} (hc : s.command = some w) (hw : decode w = .ok i) (hf : applyForm s i = none) :
    s.runningApply = none := by
  simp only [State.runningApply, hc, hw, applyLayout_eq s, hf, Option.map_none]

theorem runningApply_of_apply {w : Word} (hc : s.command = some w) (hw : decode w = .ok i)
    (hf : applyForm s i = some (lay, uv, p, t)) (hdepth : s.frame.cfg.bitdepth ≠ 3) (hgeometry : s.geometryOk lay uv = true) :
    s.runningApply = some (lay, uv) := by
  simp only [State.runningApply, hc, hw, applyLayout_eq s, hf, Option.map_some, Cfg.depthIllegal_eq_false hdepth, hgeometry,
    Bool.not_false, Bool.and_self, if_true]

/-- A store outside the footprints of the running APPLY command is made. -/
theorem storeSample_of_outside
    (h : ∀ lay uv, s.runningApply = some (lay, uv) → a ∉ s.srcBytes lay ∧ a ∉ s.dstBytes lay ∧ a ∉ s.lumaBytes lay uv) (v : Byte) :
    storeSample a v s = .next (s.setMem (setByte s.mem a v)) := by
  rcases hrun : s.runningApply with _ | ⟨lay, uv⟩
  · simp only [storeSample, hrun]
  · obtain ⟨hsrc, hdst, hluma⟩ := h lay uv hrun
    simp [storeSample, hrun, hsrc, hdst, hluma]

/-- A store into one of them is refused. -/
theorem storeSample_of_footprint (hrun : s.runningApply = some (lay, uv))
    (h : a ∈ s.srcBytes lay ∨ a ∈ s.dstBytes lay ∨ a ∈ s.lumaBytes lay uv) (v : Byte) :
    storeSample a v s = .refused .footprintWritten := by
  have hmeets : ((s.srcBytes lay).contains a || (s.dstBytes lay).contains a || (s.lumaBytes lay uv).contains a) = true := by
    simpa [or_assoc] using h
  simp only [storeSample, hrun, hmeets, if_true]

/-- Settles O58: the store is refused exactly in a footprint of the running APPLY command, else it sets its byte. -/
theorem sampleStoresSetTheirByte : Obligations.SampleStoresSetTheirByte := by
  intro s a v rest he
  refine ⟨fun hout => ?_, fun w i lay uv p t hc hw hf hdepth hgeometry ha => ?_, ?_⟩
  · refine ⟨_, (step_of_event he).trans (storeSample_of_outside (s := s.setEvents rest) hout v), rfl, ?_, fun b hb => ?_⟩
    · exact (byteAt_setByte s.mem a a v).trans (if_pos rfl)
    · exact (byteAt_setByte s.mem a b v).trans (if_neg hb)
  · have hrun := runningApply_of_apply hc hw hf hdepth hgeometry
    exact (step_of_event he).trans (storeSample_of_footprint (s := s.setEvents rest) hrun ha v)
  · rintro (hc | ⟨w, i, hc, hw, hf⟩)
    · exact runningApply_of_no_command hc
    · exact runningApply_of_not_apply hc hw hf

end Sys2Proof.Machine
end

section
/-!
SUPPORT. The encoding (30_encoding.md): the rows of the opcode map as the rules of `decode`, the encoder as their inverse, and the
step of the engine on the word it has accepted.
-/

namespace Sys2Proof.Machine

/-! The opcode map (30_encoding.md R98) -/

/-- Two rows that one word matches agree on the bits that both of them fix. -/
theorem OpcodeRow.value_and_mask {w : Word} {r r' : OpcodeRow} (h : w &&& r.mask = r.value) (h' : w &&& r'.mask = r'.value) :
    r.value &&& r'.mask = r'.value &&& r.mask := by
  rw [← h, ← h', BitVec.and_assoc, BitVec.and_assoc, BitVec.and_comm r.mask]

/-- Two different rows differ in a bit that both of them fix. -/
theorem opcodeRows_differ : ∀ r ∈ opcodeRows, ∀ r' ∈ opcodeRows,
    r.value &&& r'.mask = r'.value &&& r.mask → r.mnemonic = r'.mnemonic := by decide +kernel

theorem opcodeRows_mnemonic_nodup : (opcodeRows.map OpcodeRow.mnemonic).Nodup := by decide +kernel

theorem mnemonic_eq_of_matches {w : Word} {r r' : OpcodeRow} (hr : r ∈ opcodeRows) (hr' : r' ∈ opcodeRows)
    (h : w &&& r.mask = r.value) (h' : w &&& r'.mask = r'.value) : r.mnemonic = r'.mnemonic :=
  opcodeRows_differ r hr r' hr' (OpcodeRow.value_and_mask h h')

/-- Settles O3: the rows are those of the table, and two of them differ in a bit that both fix. -/
theorem opcodeMapIsTheSpecsAndDisjoint : Obligations.OpcodeMapIsTheSpecsAndDisjoint :=
  ⟨rfl, fun _ _ _ hr hr' h h' => mnemonic_eq_of_matches hr hr' h h'⟩

/-! What `decode` answers (30_encoding.md R99) -/

theorem decode_of_matches {w : Word} {r : OpcodeRow} (hr : r ∈ opcodeRows) (h : w &&& r.mask = r.value) :
    decode w = .ok (r.build w) := by
  rcases hfind : opcodeRows.find? (fun r => r.matchesWord w) with _ | r'
  · exact absurd (beq_iff_eq.mpr h) (List.find?_eq_none.mp hfind r hr)
  · have hr' := List.mem_of_find?_eq_some hfind
    have h' : w &&& r'.mask = r'.value := beq_iff_eq.mp (List.find?_some (p := fun r : OpcodeRow => r.matchesWord w) hfind)
    obtain rfl : r = r' :=
      List.inj_on_of_nodup_map opcodeRows_mnemonic_nodup hr hr' (mnemonic_eq_of_matches hr hr' h h')
    simp only [decode, hfind]

theorem decode_of_no_match {w : Word} (h : ∀ r ∈ opcodeRows, w &&& r.mask ≠ r.value) : decode w = .error (illegalReason w) := by
  have hfind : opcodeRows.find? (fun r => r.matchesWord w) = none :=
    List.find?_eq_none.mpr fun r hr hmatch => h r hr (beq_iff_eq.mp hmatch)
  simp only [decode, hfind]

theorem decode_eq_ok_iff {w : Word} {i : Instr} :
    decode w = .ok i ↔ ∃ r ∈ opcodeRows, w &&& r.mask = r.value ∧ r.build w = i := by
  constructor
  · intro hi
    by_contra! hno
    have hmatch : ∀ r ∈ opcodeRows, w &&& r.mask ≠ r.value := fun r hr h =>
      hno r hr h (Except.ok.inj ((decode_of_matches hr h).symm.trans hi))
    exact nomatch (decode_of_no_match hmatch).symm.trans hi
  · rintro ⟨r, hr, h, rfl⟩
    exact decode_of_matches hr h

/-- A word is illegal exactly when no row matches it. -/
theorem decode_error_iff {w : Word} : (∃ e, decode w = .error e) ↔ ¬ ∃ r ∈ opcodeRows, w &&& r.mask = r.value := by
  constructor
  · rintro ⟨e, he⟩ ⟨r, hr, h⟩
    exact nomatch (decode_of_matches hr h).symm.trans he
  · intro hno
    exact ⟨_, decode_of_no_match fun r hr h => hno ⟨r, hr, h⟩⟩

/-- `decode_of_matches` for a row given by its number in the map. -/
theorem decode_row (k : Fin 14) {w : Word} (h : w &&& opcodeRows[k].mask = opcodeRows[k].value) :
    decode w = .ok (opcodeRows[k].build w) :=
  decode_of_matches (List.getElem_mem _) h

theorem planeField_eq (w : Word) : planeField w = if w.getLsbD 10 then .v else .u := by
  unfold planeField
  cases w.getLsbD 10 <;> rfl

/-- Settles O4, a row at a time. -/
theorem decodeFollowsTheOpcodeMap : Obligations.DecodeFollowsTheOpcodeMap := by
  intro w plane
  have hplane : planeField w = plane := planeField_eq w
  rw [← hplane]
  refine ⟨?_, decode_row 1, decode_row 2, ?_, decode_row 4, decode_row 5, decode_row 6, ?_, ?_, ?_, ?_, decode_row 11, decode_row 12,
    decode_row 13, fun hno => ⟨_, decode_of_no_match hno⟩⟩
  · exact fun h => decode_row 0 ((and_allOnes_word w).trans h)
  · exact fun h => decode_row 3 ((and_allOnes_word w).trans h)
  · exact fun h => decode_row 7 ((and_allOnes_word w).trans h)
  · exact fun h => decode_row 8 ((and_allOnes_word w).trans h)
  · exact fun h => decode_row 9 ((and_allOnes_word w).trans h)
  · exact fun h => decode_row 10 ((and_allOnes_word w).trans h)

/-- Settles O6: each word is written out. -/
theorem writtenOutWordsDecode : Obligations.WrittenOutWordsDecode := by
  unfold Obligations.WrittenOutWordsDecode
  decide

/-! Encoding what a word decodes to (30_encoding.md R91, R97) -/

theorem Plane.bit_ofBit (b : Bool) : (Plane.ofBit b).bit = b := by cases b <;> rfl

theorem planeBits_planeField (w : Word) : planeBits (planeField w) = w &&& 0x00000400 := by
  rw [planeBits, planeField, Plane.bit_ofBit]
  exact bitAt_getLsbD w 10

theorem isIdBits_isIdField (w : Word) : isIdBits (isIdField w) = w &&& 0x00000800 := bitAt_getLsbD w 11

theorem widthBits_widthField (w : Word) : widthBits (widthField w) = w &&& 0x00000F00 := by
  rw [widthBits, widthField, Nat.add_sub_cancel, BitVec.ofNat_toNat]
  exact fieldAt_extractLsb' w 8 4

theorem imm16Field_append (w : Word) : imm16Field w ++ 0x0001#16 = 0x00000001 ||| (w &&& 0xFFFF0000) := by
  have himm : fieldAt 16 (imm16Field w) = w &&& 0xFFFF0000 := fieldAt_extractLsb' w 16 16
  rw [← himm, BitVec.or_comm, BitVec.append_def, BitVec.shiftLeftZeroExtend_eq]
  rfl

theorem widthField_le (w : Word) : widthField w ≤ 16 := (w.extractLsb' 8 4).isLt

/-- What a row builds from a word is well formed, and its encoding has the row's fixed bits and the word's own other bits. -/
theorem encode_build (w : Word) : ∀ r ∈ opcodeRows,
    (r.build w).wellFormed = true ∧ encode (r.build w) = r.value ||| (w &&& ~~~ r.mask) := by
  have hnone (v : Word) : v = v ||| (w &&& ~~~ 0xFFFFFFFF) := by simp
  have hplane (v : Word) : v ||| planeBits (planeField w) = v ||| (w &&& ~~~ 0xFFFFFBFF) := by
    rw [planeBits_planeField]; rfl
  have hboth (v : Word) : v ||| planeBits (planeField w) ||| isIdBits (isIdField w) = v ||| (w &&& ~~~ 0xFFFFF3FF) := by
    rw [planeBits_planeField, isIdBits_isIdField, BitVec.or_assoc, ← BitVec.and_or_distrib_left]; rfl
  have hwidth : (0x00000002 : Word) ||| widthBits (widthField w) = 0x00000002 ||| (w &&& ~~~ 0xFFFFF0FF) := by
    rw [widthBits_widthField]; rfl
  have hstep : (Instr.prngStep (widthField w)).wellFormed = true := by
    simp only [Instr.wellFormed, widthField_le, decide_true, Bool.and_true, decide_eq_true_eq]
    exact Nat.le_add_left ..
  simp only [opcodeRows, List.cons_append, List.nil_append, List.forall_mem_cons]
  exact ⟨⟨rfl, hnone _⟩, ⟨rfl, imm16Field_append w⟩, ⟨hstep, hwidth⟩, ⟨rfl, hnone _⟩, ⟨rfl, hplane _⟩, ⟨rfl, hplane _⟩,
    ⟨rfl, hplane _⟩, ⟨rfl, hnone _⟩, ⟨rfl, hnone _⟩, ⟨rfl, hnone _⟩, ⟨rfl, hnone _⟩, ⟨rfl, hboth _⟩, ⟨rfl, hboth _⟩,
    ⟨rfl, hboth _⟩, List.forall_mem_nil _⟩

/-- Settles O2: the row that matches fixes its own bits, and the fields hold the others. -/
theorem decodedWordsAreTheirEncodings : Obligations.DecodedWordsAreTheirEncodings := by
  intro w i hi
  obtain ⟨r, hr, hmatch, rfl⟩ := decode_eq_ok_iff.mp hi
  obtain ⟨hwf, hencode⟩ := encode_build w r hr
  refine ⟨hwf, ?_⟩
  calc encode (r.build w) = (w &&& r.mask) ||| (w &&& ~~~ r.mask) := by rw [hencode, hmatch]
    _ = w := by rw [← BitVec.and_or_distrib_left, BitVec.or_not_self, BitVec.and_allOnes]

/-! Decoding an encoding (30_encoding.md R92 to R99) -/

/-- A command is decoded from its word when its row matches the word and builds the command from it. -/
theorem decode_encode_of_row (k : Fin 14) {i : Instr} (hmatch : encode i &&& opcodeRows[k].mask = opcodeRows[k].value)
    (hbuild : opcodeRows[k].build (encode i) = i) : decode (encode i) = .ok i := by
  rw [decode_row k hmatch, hbuild]

theorem decode_encode_prngLoad (imm16 : BitVec 16) : decode (encode (.prngLoad imm16)) = .ok (.prngLoad imm16) := by
  have hlow : (imm16 ++ 0x0001#16) &&& 0x0000FFFF = (0x00000001 : Word) := by
    rw [show (0x0000FFFF : Word) = 0#16 ++ BitVec.allOnes 16 from rfl, BitVec.and_append, BitVec.and_zero, BitVec.and_allOnes]
    rfl
  have himm : imm16Field (imm16 ++ 0x0001#16) = imm16 := BitVec.extractLsb'_append_eq_left
  exact decode_encode_of_row 1 hlow (congrArg Instr.prngLoad himm)

theorem decode_encode_prngStep {n : Nat} (hn : (Instr.prngStep n).wellFormed = true) :
    decode (encode (.prngStep n)) = .ok (.prngStep n) := by
  have hall : ∀ k : Fin 16, decode (encode (.prngStep (k + 1))) = .ok (.prngStep (k + 1)) := by decide
  simp only [Instr.wellFormed, Bool.and_eq_true, decide_eq_true_eq] at hn
  obtain ⟨hpos, hle⟩ := hn
  have h := hall ⟨n - 1, by omega⟩
  rwa [Nat.sub_add_cancel hpos] at h

/-- Every well-formed command is decoded from its word, by the row of the command. -/
theorem decode_encode {i : Instr} (hi : i.wellFormed = true) : decode (encode i) = .ok i := by
  cases i with
  | nop => exact decode_encode_of_row 0 rfl rfl
  | prngLoad imm16 => exact decode_encode_prngLoad imm16
  | prngStep n => exact decode_encode_prngStep hi
  | genGrainY => exact decode_encode_of_row 3 rfl rfl
  | genGrainUV420 plane => cases plane <;> exact decode_encode_of_row 4 rfl rfl
  | genGrainUV422 plane => cases plane <;> exact decode_encode_of_row 5 rfl rfl
  | genGrainUV444 plane => cases plane <;> exact decode_encode_of_row 6 rfl rfl
  | genScalingY => exact decode_encode_of_row 7 rfl rfl
  | genScalingU => exact decode_encode_of_row 8 rfl rfl
  | genScalingV => exact decode_encode_of_row 9 rfl rfl
  | applyY => exact decode_encode_of_row 10 rfl rfl
  | applyUV420 plane isId => cases plane <;> cases isId <;> exact decode_encode_of_row 11 rfl rfl
  | applyUV422 plane isId => cases plane <;> cases isId <;> exact decode_encode_of_row 12 rfl rfl
  | applyUV444 plane isId => cases plane <;> cases isId <;> exact decode_encode_of_row 13 rfl rfl

theorem wordOfBytes_extractLsb' (w : Word) :
    wordOfBytes (w.extractLsb' 0 8) (w.extractLsb' 8 8) (w.extractLsb' 16 8) (w.extractLsb' 24 8) = w := by
  calc wordOfBytes (w.extractLsb' 0 8) (w.extractLsb' 8 8) (w.extractLsb' 16 8) (w.extractLsb' 24 8)
      = w.extractLsb' 16 16 ++ w.extractLsb' 8 8 ++ w.extractLsb' 0 8 :=
        congrArg (· ++ w.extractLsb' 8 8 ++ w.extractLsb' 0 8) (BitVec.extractLsb'_append_extractLsb'_eq_extractLsb' rfl)
    _ = w.extractLsb' 8 24 ++ w.extractLsb' 0 8 :=
        congrArg (· ++ w.extractLsb' 0 8) (BitVec.extractLsb'_append_extractLsb'_eq_extractLsb' rfl)
    _ = w.extractLsb' 0 32 := BitVec.extractLsb'_append_extractLsb'_eq_extractLsb' rfl
    _ = w := BitVec.extractLsb'_eq_self

theorem decodeBytes_bytesOfWord {w : Word} {i : Instr} (h : decode w = .ok i) (rest : List Byte) :
    decodeBytes (bytesOfWord w ++ rest) = .ok (i, rest) := by
  simp only [bytesOfWord, List.cons_append, List.nil_append, decodeBytes, wordOfBytes_extractLsb', h]

/-- Settles O1: the row of the command matches its word, and the bytes make up the word again. -/
theorem encodedCommandsDecodeToThemselves : Obligations.EncodedCommandsDecodeToThemselves :=
  fun _ rest hi => ⟨decode_encode hi, decodeBytes_bytesOfWord (decode_encode hi) rest⟩

/-! The illegal words (30_encoding.md R100) -/

/-- Bit `i` of a word under a mask that leaves out the bits from `n` below `m`. -/
theorem getLsbD_and_not_fieldAt (w : Word) (n m i : Nat) (hnm : n ≤ m) :
    (w &&& ~~~ fieldAt n (BitVec.allOnes (m - n))).getLsbD i = (w.getLsbD i && (decide (i < n) || decide (m ≤ i))) := by
  by_cases hi : i < 32
  · by_cases hn : i < n
    · simp [fieldAt, hi, hn]
    · have hm : i - n < m - n ↔ i < m := by omega
      simp [fieldAt, hi, hn, hm, ← decide_not]
  · simp [BitVec.getLsbD_of_ge _ _ (Nat.le_of_not_lt hi)]

/-- A word under such a mask is `v`, a value of the bits below `n`: `v` stands below `n`, and zeroes from `m` on. -/
theorem and_not_fieldAt_eq_iff {w v : Word} {n m : Nat} (hnm : n ≤ m) (hv : v.toNat < 2 ^ n) :
    w &&& ~~~ fieldAt n (BitVec.allOnes (m - n)) = v ↔ w.toNat % 2 ^ n = v.toNat ∧ w.toNat / 2 ^ m = 0 := by
  have hvbit {i : Nat} (hi : n ≤ i) : v.getLsbD i = false :=
    Nat.testBit_lt_two_pow (Nat.lt_of_lt_of_le hv (Nat.pow_le_pow_right Nat.two_pos hi))
  constructor
  · intro h
    have hbit (i : Nat) : v.getLsbD i = (w.getLsbD i && (decide (i < n) || decide (m ≤ i))) :=
      h ▸ getLsbD_and_not_fieldAt w n m i hnm
    refine ⟨Nat.eq_of_testBit_eq fun i => ?_, Nat.eq_of_testBit_eq fun i => ?_⟩
    · rw [Nat.testBit_mod_two_pow, BitVec.testBit_toNat, BitVec.testBit_toNat]
      by_cases hi : i < n
      · simp [hbit, hi]
      · simp [hvbit (Nat.le_of_not_lt hi), hi]
    · rw [Nat.testBit_div_two_pow, BitVec.testBit_toNat, Nat.zero_testBit]
      simpa [hvbit (Nat.le_add_left_of_le hnm)] using hbit (i + m)
  · rintro ⟨hlow, hhigh⟩
    refine BitVec.eq_of_getLsbD_eq fun i _ => ?_
    rw [getLsbD_and_not_fieldAt w n m i hnm]
    by_cases hi : i < n
    · simp [← BitVec.testBit_toNat, ← hlow, hi]
    · rw [hvbit (Nat.le_of_not_lt hi)]
      by_cases hm : m ≤ i
      · obtain ⟨k, rfl⟩ := Nat.exists_eq_add_of_le' hm
        simp [← BitVec.testBit_toNat, ← Nat.testBit_div_two_pow, hhigh]
      · simp [hi, hm]

/-- The rows of the formats of 30_encoding.md R92, R95 and R96, which fix the bits below 10 and those from `m` on, by OPCODE and
the two bits above it. -/
theorem matches_iff_opcode_sel {w v : Word} {m : Nat} (hm : 10 ≤ m) (hv : v.toNat < 1024) :
    w &&& ~~~ fieldAt 10 (BitVec.allOnes (m - 10)) = v ↔
      w.toNat % 256 = v.toNat % 256 ∧ w.toNat / 256 % 4 = v.toNat / 256 ∧ w.toNat / 2 ^ m = 0 := by
  have hlow : w.toNat % 1024 = v.toNat ↔ w.toNat % 256 = v.toNat % 256 ∧ w.toNat / 256 % 4 = v.toNat / 256 := by omega
  rw [and_not_fieldAt_eq_iff hm hv, ← and_assoc, ← hlow]
  rfl

/-- The words that a row matches, row by row, in the numbers of their fields. -/
theorem exists_row_iff {w : Word} : (∃ r ∈ opcodeRows, w &&& r.mask = r.value) ↔
    let op := w.toNat % 256
    let sel := w.toNat / 256 % 4
    (op = 0x00 ∧ sel = 0 ∧ w.toNat / 1024 = 0) ∨ (op = 0x01 ∧ w.toNat / 256 % 256 = 0) ∨ (op = 0x02 ∧ w.toNat / 4096 = 0) ∨
      (op = 0x10 ∧ sel = 0 ∧ w.toNat / 1024 = 0) ∨ (op = 0x11 ∧ sel = 1 ∧ w.toNat / 2048 = 0) ∨
      (op = 0x11 ∧ sel = 2 ∧ w.toNat / 2048 = 0) ∨ (op = 0x11 ∧ sel = 3 ∧ w.toNat / 2048 = 0) ∨
      (op = 0x20 ∧ sel = 0 ∧ w.toNat / 1024 = 0) ∨ (op = 0x20 ∧ sel = 1 ∧ w.toNat / 1024 = 0) ∨
      (op = 0x20 ∧ sel = 2 ∧ w.toNat / 1024 = 0) ∨ (op = 0x30 ∧ sel = 0 ∧ w.toNat / 1024 = 0) ∨
      (op = 0x31 ∧ sel = 1 ∧ w.toNat / 4096 = 0) ∨ (op = 0x31 ∧ sel = 2 ∧ w.toNat / 4096 = 0) ∨
      (op = 0x31 ∧ sel = 3 ∧ w.toNat / 4096 = 0) := by
  have hload : w &&& 0x0000FFFF = 0x00000001 ↔ w.toNat % 256 = 0x01 ∧ w.toNat / 256 % 256 = 0 := by
    have hlow : w.toNat % 65536 = 0x01 ↔ w.toNat % 256 = 0x01 ∧ w.toNat / 256 % 256 = 0 := by omega
    exact (and_not_fieldAt_eq_iff (n := 16) (m := 32) (by decide) (by decide)).trans
      ((and_iff_left (Nat.div_eq_of_lt w.isLt)).trans hlow)
  have hstep : w &&& 0xFFFFF0FF = 0x00000002 ↔ w.toNat % 256 = 0x02 ∧ w.toNat / 4096 = 0 :=
    and_not_fieldAt_eq_iff (n := 8) (m := 12) (by decide) (by decide)
  have hfixed (v : Word) (hv : v.toNat < 1024) : w &&& 0xFFFFFFFF = v ↔ _ := matches_iff_opcode_sel (m := 10) (by decide) hv
  have hgrain (v : Word) (hv : v.toNat < 1024) : w &&& 0xFFFFFBFF = v ↔ _ := matches_iff_opcode_sel (m := 11) (by decide) hv
  have happly (v : Word) (hv : v.toNat < 1024) : w &&& 0xFFFFF3FF = v ↔ _ := matches_iff_opcode_sel (m := 12) (by decide) hv
  simp only [opcodeRows, List.cons_append, List.nil_append, List.mem_cons, List.not_mem_nil, or_false, or_and_right,
    exists_or, exists_eq_left]
  rw [hload, hstep, hfixed _ (by decide), hfixed _ (by decide), hfixed _ (by decide), hfixed _ (by decide), hfixed _ (by decide),
    hfixed _ (by decide), hgrain _ (by decide), hgrain _ (by decide), hgrain _ (by decide), happly _ (by decide),
    happly _ (by decide), happly _ (by decide)]
  exact Iff.rfl

/-- Settles O5: by OPCODE and the two bits above it, the rows leave out exactly the reserved patterns. -/
theorem reservedEncodingsAreIllegal : Obligations.ReservedEncodingsAreIllegal := by
  intro w
  rw [decode_error_iff, exists_row_iff]
  have hsel : w.toNat / 256 % 4 < 4 := Nat.mod_lt _ (by decide)
  dsimp only
  generalize w.toNat % 256 = op, w.toNat / 256 % 4 = sel at hsel ⊢
  by_cases hop : op ∈ [0x00, 0x01, 0x02, 0x10, 0x11, 0x20, 0x30, 0x31]
  · simp only [List.mem_cons, List.not_mem_nil, or_false] at hop
    rcases hop with rfl | rfl | rfl | rfl | rfl | rfl | rfl | rfl <;> interval_cases sel <;> simp
  · simp_all

/-! The engine's step (60_exceptions.md R200) -/

theorem step_of_engine {s : State} {rest : List Event} (he : s.events = .engine :: rest) :
    step s = engineStep (s.setEvents rest) := step_of_event he

/-- Settles O7: no move waits, or the engine's is the oldest. -/
theorem stepExecutesTheDecodedCommand : Obligations.StepExecutesTheDecodedCommand := by
  intro s w i hc hw
  refine ⟨fun he => ?_, fun rest he => ?_⟩
  · exact (step_of_no_event he).trans (engineStep_command hc hw)
  · exact (step_of_engine he).trans (engineStep_command (s := s.setEvents rest) hc hw)

/-- Settles O8: the fault of the engine's step on an illegal word, with the waiting moves left. -/
theorem illegalWordsRaiseIllegalCmd : Obligations.IllegalWordsRaiseIllegalCmd := by
  intro s w rest e he hc hw
  exact (step_of_engine he).trans (engineStep_illegal (s := s.setEvents rest) hc hw)

end Sys2Proof.Machine
end

section
/-!
SUPPORT. The generator (40_prng.md): its step in arithmetic, the two commands that only use the generator, and its period.
-/

namespace Sys2Proof.Machine

/-! The step in arithmetic (40_prng.md R110) -/

theorem xor_toNat (a b : Bool) : (a ^^ b).toNat = (a.toNat + b.toNat) % 2 := by cases a <;> cases b <;> rfl

theorem lfsrBit_toNat (r : BitVec 16) :
    (lfsrBit r).toNat = (r.toNat % 2 + r.toNat / 2 % 2 + r.toNat / 8 % 2 + r.toNat / 4096 % 2) % 2 := by
  have hbit (k : Nat) : (r.getLsbD k).toNat = r.toNat / 2 ^ k % 2 := by
    rw [← BitVec.testBit_toNat, Nat.toNat_testBit]
  rw [lfsrBit, xor_toNat, xor_toNat, xor_toNat, hbit, hbit, hbit, hbit, Nat.pow_zero, Nat.div_one]
  omega

theorem lfsrStep_toNat_eq_half_add_bit (r : BitVec 16) : (lfsrStep r).toNat = r.toNat / 2 + 32768 * (lfsrBit r).toNat := by
  have hhalf : r.toNat / 2 < 2 ^ 15 := by omega
  calc (lfsrStep r).toNat = (lfsrBit r).toNat <<< 15 ||| r.toNat / 2 := by
        cases hb : lfsrBit r <;> simp [lfsrStep, hb, Nat.shiftRight_eq_div_pow, Nat.or_comm]
    _ = r.toNat / 2 + 32768 * (lfsrBit r).toNat := by
        rw [← Nat.shiftLeft_add_eq_or_of_lt hhalf, Nat.shiftLeft_eq]
        omega

theorem lfsrStep_toNat (r : BitVec 16) :
    (lfsrStep r).toNat = r.toNat / 2 +
      32768 * ((r.toNat % 2 + r.toNat / 2 % 2 + r.toNat / 8 % 2 + r.toNat / 4096 % 2) % 2) := by
  rw [lfsrStep_toNat_eq_half_add_bit, lfsrBit_toNat]

/-- The new state's lower bits are the old state's bits but the lowest, and the feedback bit gives that one. -/
theorem lfsrStep_injective : Function.Injective lfsrStep := by
  intro r r' h
  have hstep := congrArg BitVec.toNat h
  rw [lfsrStep_toNat_eq_half_add_bit, lfsrStep_toNat_eq_half_add_bit] at hstep
  have hupper : r.toNat / 2 = r'.toNat / 2 := by omega
  have hbit : (lfsrBit r).toNat = (lfsrBit r').toNat := by omega
  have h8 : r.toNat / 8 = r'.toNat / 8 := by omega
  have h4096 : r.toNat / 4096 = r'.toNat / 4096 := by omega
  have hlow : r.toNat % 2 = r'.toNat % 2 := by
    rw [lfsrBit_toNat, lfsrBit_toNat, hupper, h8, h4096] at hbit
    omega
  apply BitVec.eq_of_toNat_eq
  omega

/-! PRNG_LOAD and PRNG_STEP (40_prng.md R112, R113) -/

theorem step_of_illegal {s : State} {w : Word} {rest : List Event} (hw : ∃ e, decode w = .error e)
    (he : s.events = .engine :: rest) (hc : s.command = some w) :
    step s = .next { (s.afterFault .illegalCmd w 0) with events := rest } := by
  obtain ⟨e, hw⟩ := hw
  exact illegalWordsRaiseIllegalCmd s w rest e he hc hw

/-- Settles O14: the state of the load, and the low half of the word against the row's. -/
theorem prngLoadSetsTheGeneratorState : Obligations.PrngLoadSetsTheGeneratorState := by
  refine ⟨fun imm s => rfl, fun w hop => ⟨fun hzero => ?_, fun hne s rest he hc => ?_⟩⟩
  · have hlow : w.toNat % 65536 = 0x01 := by omega
    have hrow : w &&& 0x0000FFFF = 0x00000001 :=
      (and_not_fieldAt_eq_iff (n := 16) (m := 32) (by decide) (by decide)).mpr ⟨hlow, Nat.div_eq_of_lt w.isLt⟩
    have himm : imm16Field w = BitVec.ofNat 16 (w.toNat / 65536) :=
      congrArg (BitVec.ofNat 16) (Nat.shiftRight_eq_div_pow w.toNat 16)
    rw [← himm]
    exact decode_row 1 hrow
  · exact step_of_illegal ((reservedEncodingsAreIllegal w).mp (by simp [hop, hne])) he hc

/-- The draw's mask leaves the top bits of a 16-bit state as they are (40_prng.md R111). -/
theorem draw_snd_eq (r : BitVec 16) {n : Nat} (hn : n ≤ 16) : (draw r n).2 = (lfsrStep r).toNat / 2 ^ (16 - n) := by
  have hlt : (lfsrStep r).toNat / 2 ^ (16 - n) < 2 ^ n :=
    Nat.div_lt_of_lt_mul (by rw [← Nat.pow_add, Nat.sub_add_cancel hn]; exact (lfsrStep r).isLt)
  rw [draw, Nat.shiftRight_eq_div_pow, Nat.mod_eq_of_lt hlt]

/-- Settles O15: the step and the draw in arithmetic, and OPCODE with the bits from 12 on against the row's. -/
theorem prngStepDrawsTheTopBits : Obligations.PrngStepDrawsTheTopBits := by
  refine ⟨fun n s _ hn => ⟨lfsrStep s.prngState, lfsrStep_toNat s.prngState, ?_⟩,
    fun w hop => ⟨fun hzero => ?_, fun hne s rest he hc => ?_⟩⟩
  · rw [← draw_snd_eq s.prngState hn]
    rfl
  · have hrow : w &&& 0xFFFFF0FF = 0x00000002 :=
      (and_not_fieldAt_eq_iff (n := 8) (m := 12) (by decide) (by decide)).mpr ⟨hop, hzero⟩
    have hwidth : widthField w = w.toNat / 256 % 16 + 1 := congrArg (· + 1) (extractLsb'_toNat_word w 8 4)
    rw [← hwidth]
    exact decode_row 2 hrow
  · exact step_of_illegal ((reservedEncodingsAreIllegal w).mp (by simp [hop, hne])) he hc

/-! Maps of states that are linear over the two-element field, by their columns -/

/-- XOR is the addition of the states as vectors over the two-element field. -/
def KeepsXor (f : BitVec 16 → BitVec 16) : Prop := ∀ a b, f (a ^^^ b) = f a ^^^ f b

theorem KeepsXor.zero {f : BitVec 16 → BitVec 16} (hf : KeepsXor f) : f 0#16 = 0#16 := by simpa using hf 0 0

theorem KeepsXor.comp {f g : BitVec 16 → BitVec 16} (hf : KeepsXor f) (hg : KeepsXor g) : KeepsXor (f ∘ g) :=
  fun a b => (congrArg f (hg a b)).trans (hf (g a) (g b))

theorem keepsXor_shiftLeft (k : Nat) : KeepsXor (· <<< k) := fun a b => BitVec.shiftLeft_xor_distrib a b k

/-- What `f` makes of each of the `m` lowest bits alone. -/
def columns (m : Nat) (f : BitVec 16 → BitVec 16) : List (BitVec 16) := (List.range m).map fun i => f (1#16 <<< i)

theorem columns_succ (m : Nat) (f : BitVec 16 → BitVec 16) : columns (m + 1) f = f 1#16 :: columns m (f ∘ (· <<< 1)) := by
  simp [columns, List.range_succ_eq_map, BitVec.shiftLeft_add]

/-- The XOR of the columns at the places where `r` has a 1. -/
def mulColumns : List (BitVec 16) → BitVec 16 → BitVec 16
  | [], _ => 0
  | c :: cs, r => (if r.getLsbD 0 then c else 0#16) ^^^ mulColumns cs (r >>> 1)

theorem lowBit_xor_upperBits (r : BitVec 16) : (if r.getLsbD 0 then 1#16 else 0#16) ^^^ ((r >>> 1) <<< 1) = r := by
  refine BitVec.eq_of_getLsbD_eq fun i hi => ?_
  cases i with
  | zero => cases r.getLsbD 0 <;> simp
  | succ i => split <;> simp [hi, Nat.add_comm]

theorem mulColumns_columns {f : BitVec 16 → BitVec 16} (hf : KeepsXor f) {m : Nat} {r : BitVec 16} (hr : r.toNat < 2 ^ m) :
    mulColumns (columns m f) r = f r := by
  induction m generalizing f r with
  | zero =>
    obtain rfl : r = 0 := BitVec.eq_of_toNat_eq (Nat.lt_one_iff.mp hr)
    exact hf.zero.symm
  | succ m ih =>
    have hupper : (r >>> 1).toNat < 2 ^ m := by rw [BitVec.toNat_ushiftRight, Nat.shiftRight_eq_div_pow]; omega
    calc mulColumns (columns (m + 1) f) r
        = (if r.getLsbD 0 then f 1#16 else 0#16) ^^^ f ((r >>> 1) <<< 1) := by
          rw [columns_succ, mulColumns, ih (hf.comp (keepsXor_shiftLeft 1)) hupper]; rfl
      _ = f (if r.getLsbD 0 then 1#16 else 0#16) ^^^ f ((r >>> 1) <<< 1) := by rw [apply_ite f, hf.zero]
      _ = f r := by rw [← hf, lowBit_xor_upperBits]

/-- `n` rounds of the map with the columns `cs`, for `n` below `2 ^ k`: each bit of `n` squares the map. -/
def jump : Nat → Nat → List (BitVec 16) → BitVec 16 → BitVec 16
  | 0, _, _, r => r
  | k + 1, n, cs, r => jump k (n / 2) (cs.map (mulColumns cs)) (if n % 2 = 1 then mulColumns cs r else r)

theorem jump_columns {f : BitVec 16 → BitVec 16} (hf : KeepsXor f) {k n : Nat} (hn : n < 2 ^ k) (r : BitVec 16) :
    jump k n (columns 16 f) r = f^[n] r := by
  induction k generalizing f n r with
  | zero =>
    obtain rfl : n = 0 := Nat.lt_one_iff.mp hn
    rfl
  | succ k ih =>
    have hmul : mulColumns (columns 16 f) = f := funext fun x => mulColumns_columns hf x.isLt
    have hsquare : (columns 16 f).map f = columns 16 (f ∘ f) := List.map_map
    have hlow : (if n % 2 = 1 then f r else r) = f^[n % 2] r := by
      rcases Nat.mod_two_eq_zero_or_one n with h | h <;> simp [h]
    calc jump (k + 1) n (columns 16 f) r
        = (f ∘ f)^[n / 2] (f^[n % 2] r) := by rw [jump, hmul, hsquare, hlow, ih (hf.comp hf) (by omega)]
      _ = f^[2 * (n / 2)] (f^[n % 2] r) := by rw [Function.iterate_mul]; rfl
      _ = f^[n] r := by rw [← Function.iterate_add_apply, Nat.div_add_mod]

/-! The period (40_prng.md R114) -/

theorem lfsrBit_xor (a b : BitVec 16) : lfsrBit (a ^^^ b) = (lfsrBit a ^^ lfsrBit b) := by
  simp only [lfsrBit, BitVec.getLsbD_xor, Bool.xor_assoc, Bool.xor_left_comm]

theorem getLsbD_lfsrStep (r : BitVec 16) {i : Nat} (hi : i < 16) :
    (lfsrStep r).getLsbD i = if i < 15 then r.getLsbD (i + 1) else lfsrBit r := by
  split
  next h => simp [lfsrStep, hi, h, Nat.add_comm]
  next h =>
    obtain rfl : i = 15 := by omega
    simp [lfsrStep]

theorem keepsXor_lfsrStep : KeepsXor lfsrStep := by
  intro a b
  refine BitVec.eq_of_getLsbD_eq fun i hi => ?_
  simp only [BitVec.getLsbD_xor, getLsbD_lfsrStep _ hi, lfsrBit_xor]
  split <;> rfl

theorem lfsrAfter_eq_iterate (k : Nat) (r : BitVec 16) : lfsrAfter k r = lfsrStep^[k] r := by
  induction k generalizing r with
  | zero => rfl
  | succ k ih => exact ih (lfsrStep r)

theorem isPeriodicPt_lfsrStep_iff {n : Nat} (hn : n < 2 ^ 16) {r : BitVec 16} :
    Function.IsPeriodicPt lfsrStep n r ↔ jump 16 n (columns 16 lfsrStep) r = r := by
  rw [jump_columns keepsXor_lfsrStep hn]
  rfl

/-- The period of a point is `n` when `n` is a period and no quotient of `n` by a prime is one. -/
theorem minimalPeriod_eq_of_not_isPeriodicPt_div {α : Type} {f : α → α} {x : α} {n : Nat} (hpos : n ≠ 0)
    (hn : Function.IsPeriodicPt f n x) (hdiv : ∀ p ∈ n.primeFactorsList, ¬ Function.IsPeriodicPt f (n / p) x) :
    Function.minimalPeriod f x = n := by
  obtain ⟨k, hk⟩ := hn.minimalPeriod_dvd
  have hone : k = 1 := by
    by_contra hne
    have hp : k.minFac ∣ k := k.minFac_dvd
    refine hdiv k.minFac ((Nat.mem_primeFactorsList hpos).mpr ⟨Nat.minFac_prime hne, hk ▸ hp.mul_left _⟩) ?_
    rw [Function.isPeriodicPt_iff_minimalPeriod_dvd, hk, Nat.mul_div_assoc _ hp]
    exact Nat.dvd_mul_right ..
  rw [hk, hone, Nat.mul_one]

theorem minimalPeriod_lfsrStep_one : Function.minimalPeriod lfsrStep 1 = 65535 := by
  have hperiod : jump 16 65535 (columns 16 lfsrStep) 1 = 1 := by decide +kernel
  have hdiv : ∀ p ∈ [3, 5, 17, 257], jump 16 (65535 / p) (columns 16 lfsrStep) 1 ≠ 1 := by decide +kernel
  have hprimes : Nat.primeFactorsList 65535 = [3, 5, 17, 257] := by simp
  refine minimalPeriod_eq_of_not_isPeriodicPt_div (by decide) ((isPeriodicPt_lfsrStep_iff (by decide)).mpr hperiod) ?_
  intro p hp hq
  have hlt : 65535 / p < 2 ^ 16 := Nat.lt_of_le_of_lt (Nat.div_le_self _ _) (by decide)
  exact hdiv p (hprimes ▸ hp) ((isPeriodicPt_lfsrStep_iff hlt).mp hq)

theorem lfsrStep_zero : lfsrStep 0 = 0 := keepsXor_lfsrStep.zero

theorem draw_zero (n : Nat) : draw 0 n = (0, 0) := by
  simp only [draw, lfsrStep_zero]
  simp

theorem lfsrAfter_one_ne_zero (k : Nat) : lfsrAfter k 1 ≠ 0 := by
  intro h
  rw [lfsrAfter_eq_iterate, ← Function.iterate_fixed lfsrStep_zero k] at h
  exact absurd (lfsrStep_injective.iterate k h) (by decide)

/-- The 65535 states of the orbit of 1 are different, so they are all the states but 0. -/
theorem exists_lfsrAfter_one_eq {r : BitVec 16} (hr : r ≠ 0) : ∃ k < 65535, lfsrAfter k 1 = r := by
  have hmaps : Set.MapsTo (lfsrAfter · 1) (Finset.range 65535) (Finset.univ.erase (0 : BitVec 16)) :=
    fun k _ => Finset.mem_erase.mpr ⟨lfsrAfter_one_ne_zero k, Finset.mem_univ _⟩
  have hinj : Set.InjOn (lfsrAfter · 1) (Finset.range 65535) := by
    simp only [lfsrAfter_eq_iterate, Finset.coe_range, ← minimalPeriod_lfsrStep_one]
    exact Function.iterate_injOn_Iio_minimalPeriod
  have hcard : (Finset.univ.erase (0 : BitVec 16)).card = 65535 := by
    rw [Finset.card_erase_of_mem (Finset.mem_univ _), Finset.card_univ, ← FinEnum.card_eq_fintypeCard, FinEnum.card_bitVec]
    rfl
  have hsurj := Finset.surjOn_of_injOn_of_card_le _ hmaps hinj (by rw [hcard, Finset.card_range])
  obtain ⟨k, hk, hkr⟩ := hsurj (by simpa using hr)
  exact ⟨k, Finset.mem_range.mp hk, hkr⟩

/-- Settles O16: the step fixes 0 and is injective, and 1 has period 65535, the number of the other states. -/
theorem generatorHasFullPeriod : Obligations.GeneratorHasFullPeriod := by
  refine ⟨lfsrStep_zero, draw_zero, fun _ _ h => lfsrStep_injective h, ?_, ?_, fun _ => exists_lfsrAfter_one_eq⟩
  · rw [lfsrAfter_eq_iterate, ← minimalPeriod_lfsrStep_one]
    exact Function.iterate_minimalPeriod
  · intro k hpos hlt h
    rw [lfsrAfter_eq_iterate] at h
    rw [← minimalPeriod_lfsrStep_one] at hlt
    exact Function.not_isPeriodicPt_of_pos_of_lt_minimalPeriod hpos.ne' hlt h

end Sys2Proof.Machine
end

section
/-!
SUPPORT. The statements of 41_grain_tables.md: what a cell holds after the fill and the AR pass, and what the GEN_GRAIN commands
store.
-/

namespace Sys2Proof.Machine

/-! Initial values and the clamp (41_grain_tables.md R121, R122) -/

theorem Cfg.b8_eq (c : Cfg) : c.b8 = 2 * c.bitdepth.toNat := Nat.add_sub_cancel_left ..

theorem Cfg.grainMin_eq (c : Cfg) : c.grainMin = -(128 * 2 ^ c.b8) := by simp [Cfg.grainMin, Nat.shiftLeft_eq]

theorem Cfg.grainMax_eq (c : Cfg) : c.grainMax = 128 * 2 ^ c.b8 - 1 := by simp [Cfg.grainMax, Nat.shiftLeft_eq]

theorem round2_eq_div (x : Int) (n : Nat) : round2 x n = (x + 2 ^ n / 2) / 2 ^ n := by
  simp [round2, Int.shiftRight_eq_div_pow, Nat.shiftLeft_eq, Nat.shiftRight_eq_div_pow]

/-- Rounding keeps a bound that is a multiple of the divisor. -/
theorem abs_round2_le {m x : Int} {n : Nat} (h : |x| ≤ m * 2 ^ n) : |round2 x n| ≤ m := by
  have hpos : (0 : Int) < 2 ^ n := by positivity
  rw [abs_le] at h
  rw [round2_eq_div, abs_le]
  constructor
  · rw [Int.le_ediv_iff_mul_le hpos, Int.neg_mul]
    omega
  · rw [← Int.lt_add_one_iff, Int.ediv_lt_iff_lt_mul hpos, Int.add_mul]
    omega

theorem clip3_bounded {lo hi : Int} (h : lo ≤ hi) (v : Int) : lo ≤ clip3 lo hi v ∧ clip3 lo hi v ≤ hi := by
  unfold clip3
  split
  · exact ⟨le_refl lo, h⟩
  · split <;> omega

/-- A clamped value lies in [grain_min, grain_max] (41_grain_tables.md R122). -/
theorem Cfg.clipped_bounded (c : Cfg) (v : Int) :
    -(128 * 2 ^ c.b8) ≤ clip3 (-(128 * 2 ^ c.b8)) (128 * 2 ^ c.b8 - 1) v ∧
      clip3 (-(128 * 2 ^ c.b8)) (128 * 2 ^ c.b8 - 1) v ≤ 128 * 2 ^ c.b8 - 1 := by
  have hpos : (0 : Int) < 2 ^ c.b8 := by positivity
  exact clip3_bounded (by omega) v

theorem Cfg.two_pow_b8_le {c : Cfg} (h : c.bitdepth ≠ 3) : (2 : Int) ^ c.b8 ≤ 16 :=
  have hb8 : c.b8 ≤ 4 := by rw [Cfg.b8_eq]; bv_omega
  pow_le_pow_right₀ (by decide) hb8

theorem abs_gaussAt_le (p : Params) (v : Nat) : |gaussAt p v| ≤ 2048 := by
  unfold gaussAt
  split
  · exact abs_le.mpr ⟨BitVec.le_toInt _, (BitVec.toInt_lt).le.trans (by decide)⟩
  · decide

/-- An initial value lies within 2048 >> shift of 0 (41_grain_tables.md R134). -/
theorem State.abs_initialGrain_le (s : State) (seed : BitVec 16) (k : Nat) :
    |s.initialGrain seed k| ≤
      ((2048 / 2 ^ (4 + s.frame.shifts.grainScaleShift.toNat - 2 * s.frame.cfg.bitdepth.toNat) : Nat) : Int) := by
  have hgss := s.frame.shifts.grainScaleShift.isLt
  have hdvd : 2 ^ (4 + s.frame.shifts.grainScaleShift.toNat - 2 * s.frame.cfg.bitdepth.toNat) ∣ 2048 :=
    pow_dvd_pow 2 (n := 11) (by omega)
  refine abs_round2_le ((abs_gaussAt_le ..).trans_eq ?_)
  exact_mod_cast (Nat.div_mul_cancel hdvd).symm

/-- The filled cell (y, x) holds the initial value of draw number y·w + x (41_grain_tables.md R121, R124). -/
theorem fillGrid_eq_initialGrain (s : State) (seed : BitVec 16) {h w y x : Nat} (hy : y < h) (hx : x < w) :
    Grid.at (fillGrid s.params s.frame.fillShift w h seed).1 y x = s.initialGrain seed (y * w + x) := by
  rw [fillGrid_at _ _ hy hx, draw_snd_eq _ (by decide), ← lfsrAfter_succ, FrameRegs.fillShift, Cfg.b8_eq]
  rfl

/-! The taps (41_grain_tables.md R123) -/

theorem sumTo_congr {n : Nat} {f f' : Nat → Int} (h : ∀ i < n, f i = f' i) : sumTo n f = sumTo n f' :=
  congrArg List.sum (List.map_congr_left fun i hi => h i (List.mem_range.mp hi))

theorem sumTo_succ (n : Nat) (f : Nat → Int) : sumTo (n + 1) f = sumTo n f + f n := by
  simp [sumTo, List.range_succ]

/-- The numbers `zipIdx` gives to `n` items from `k` on. -/
theorem sum_zipIdx_map_range {α : Type} (item : Nat → α) (val : α × Nat → Int) (n k : Nat) :
    ((((List.range n).map item).zipIdx k).map val).sum = sumTo n (fun j => val (item j, k + j)) := by
  induction n with
  | zero => rfl
  | succ n ih => simp [List.range_succ, List.zipIdx_append, ih, sumTo_succ]

/-- Row `i` of `n` rows of `m` items starts at number i·m. -/
theorem sum_zipIdx_flatMap_range {α : Type} (item : Nat → Nat → α) (val : α × Nat → Int) (n m : Nat) :
    ((((List.range n).flatMap (fun i => (List.range m).map (item i))).zipIdx).map val).sum =
      sumTo n (fun i => sumTo m (fun j => val (item i j, i * m + j))) := by
  induction n with
  | zero => rfl
  | succ n ih => simp [List.range_succ, List.zipIdx_append, ih, sumTo_succ, sum_zipIdx_map_range]

/-- The neighbour-tap sum over any reading of the cells: `State.neighbourSum` and `arSum` are two uses of it. -/
def tapSum (coef : Nat → Int) (lag : Nat) (cell : Nat → Nat → Int) (y x : Nat) : Int :=
  sumTo lag (fun i => sumTo (2 * lag + 1) (fun j => coef (i * (2 * lag + 1) + j) * cell (y + i - lag) (x + j - lag))) +
    sumTo lag (fun j => coef (lag * (2 * lag + 1) + j) * cell y (x + j - lag))

theorem State.neighbourSum_eq_tapSum (s : State) (p : Nat) (coef : Nat → Int) (lag y x : Nat) :
    s.neighbourSum p coef lag y x = tapSum coef lag (s.grainCell p) y x := rfl

theorem arSum_eq_tapSum (coef : Nat → Int) (lag : Nat) (g : Grid) (y x : Nat) :
    arSum coef lag g y x = tapSum coef lag (Grid.at g) y x := by
  unfold arSum taps tapSum
  rw [List.zipIdx_append, List.map_append, List.sum_append, sum_zipIdx_flatMap_range, sum_zipIdx_map_range]
  congr 1
  · refine sumTo_congr fun i hi => sumTo_congr fun j _ => ?_
    rw [show y - (lag - i) = y + i - lag by omega]
  · simp

/-- Cell `a` stands before cell `b` in raster order. -/
def RasterBefore (a b : Nat × Nat) : Prop := a.1 < b.1 ∨ a.1 = b.1 ∧ a.2 < b.2

/-- Every tap stands before its cell in raster order, at most `lag` columns to the right of it. -/
theorem tapSum_congr {coef : Nat → Int} {lag y x : Nat} {cell cell' : Nat → Nat → Int} (hy : lag ≤ y) (hx : lag ≤ x)
    (h : ∀ r c, RasterBefore (r, c) (y, x) → c ≤ x + lag → cell r c = cell' r c) :
    tapSum coef lag cell y x = tapSum coef lag cell' y x := by
  unfold tapSum
  congr 1
  · refine sumTo_congr fun i hi => sumTo_congr fun j hj => ?_
    rw [h _ _ (.inl (by dsimp only; omega)) (by omega)]
  · refine sumTo_congr fun j hj => ?_
    rw [h y (x + j - lag) (.inr ⟨rfl, by dsimp only; omega⟩) (by omega)]

theorem Shifts.lag_le (r : Shifts) : r.lag ≤ 3 := Nat.le_of_lt_succ r.arLag.isLt

/-! The AR pass (41_grain_tables.md R125, R129) -/

theorem arRegion_pairwise (h w : Nat) : (arRegion h w).Pairwise RasterBefore := by
  unfold arRegion
  rw [List.pairwise_flatMap]
  constructor
  · intro i _
    rw [List.pairwise_map]
    exact List.pairwise_lt_range.imp fun hlt => .inr ⟨rfl, Nat.add_lt_add_right hlt 3⟩
  · refine List.pairwise_lt_range.imp fun {i j} hlt a ha b hb => ?_
    obtain ⟨_, _, rfl⟩ := List.mem_map.mp ha
    obtain ⟨_, _, rfl⟩ := List.mem_map.mp hb
    exact .inl (Nat.add_lt_add_right hlt 3)

/-- Puts at the cells of a list, each value taken from the grid as it then is. -/
def sweep (val : Grid → Nat → Nat → Int) (cells : List (Nat × Nat)) (g : Grid) : Grid :=
  cells.foldl (fun acc c => Grid.put acc c.1 c.2 (val acc c.1 c.2)) g

theorem arPass_eq_sweep (f : FrameRegs) (coef : Nat → Int) (extra : Nat → Nat → Int) (h w : Nat) (g : Grid) :
    arPass f coef extra h w g = sweep (arValue f coef extra) (arRegion h w) g := rfl

/-- A sweep in raster order writes each of its cells once. The value is taken from a grid that reads what it read at first
at the cell and what the finished grid reads before the cell. -/
theorem sweep_at_of_mem {h w : Nat} (val : Grid → Nat → Nat → Int) {cells : List (Nat × Nat)}
    (hc : ∀ c ∈ cells, c.1 < h ∧ c.2 < w) (hs : cells.Pairwise RasterBefore) {g : Grid} (hg : Grid.Shape h w g) {y x : Nat}
    (hyx : (y, x) ∈ cells) :
    ∃ acc, Grid.at (sweep val cells g) y x = val acc y x ∧ Grid.at acc y x = Grid.at g y x ∧
      ∀ r c, RasterBefore (r, c) (y, x) → Grid.at acc r c = Grid.at (sweep val cells g) r c := by
  induction cells generalizing g with
  | nil => cases hyx
  | cons head rest ih =>
    obtain ⟨hhead, hrest⟩ := List.forall_mem_cons.mp hc
    obtain ⟨hfirst, hsorted⟩ := List.pairwise_cons.mp hs
    have hput := Grid.put_shape hg head.1 head.2 (val g head.1 head.2)
    have hat := Grid.at_put hg hhead.1 hhead.2 (val g head.1 head.2)
    rcases List.mem_cons.mp hyx with rfl | hmem
    · have hkept : ∀ r c, (r, c) ∉ rest →
          Grid.at (sweep val ((y, x) :: rest) g) r c = Grid.at (Grid.put g y x (val g y x)) r c :=
        fun r c hrc => foldl_put_at_of_not_mem val rest hrest hput hrc
      refine ⟨g, ?_, rfl, fun r c hrc => ?_⟩
      · rw [hkept y x fun hm => by simpa [RasterBefore] using hfirst _ hm, hat, if_pos ⟨rfl, rfl⟩]
      · rw [hkept r c fun hm => ?_, hat, if_neg]
        · rintro ⟨rfl, rfl⟩
          simp [RasterBefore] at hrc
        · have := hfirst _ hm
          unfold RasterBefore at this hrc
          omega
    · obtain ⟨acc, hval, hold, hdone⟩ := ih hrest hsorted hput hmem
      refine ⟨acc, hval, ?_, hdone⟩
      rw [hold, hat, if_neg]
      rintro ⟨rfl, rfl⟩
      simpa [RasterBefore] using hfirst _ hmem

/-- A cell of the AR region obeys the recurrence over the finished grid: its taps are already final when it is visited. -/
theorem arPass_recurrence (f : FrameRegs) (coef : Nat → Int) (extra : Nat → Nat → Int) {h w : Nat} {g : Grid}
    (hg : Grid.Shape h w g) {y x : Nat} (hyx : (y, x) ∈ arRegion h w) :
    Grid.at (arPass f coef extra h w g) y x =
      clip3 f.cfg.grainMin f.cfg.grainMax (Grid.at g y x +
        round2 (tapSum coef f.shifts.lag (Grid.at (arPass f coef extra h w g)) y x + extra y x) f.shifts.arShift) := by
  have hcells : ∀ c ∈ arRegion h w, c.1 < h ∧ c.2 < w := fun c hc => by
    obtain ⟨-, hy, -, hx⟩ := mem_arRegion.mp (show (c.1, c.2) ∈ arRegion h w from hc)
    exact ⟨hy, by omega⟩
  obtain ⟨hy, -, hx, -⟩ := mem_arRegion.mp hyx
  obtain ⟨acc, hval, hold, hdone⟩ := sweep_at_of_mem (arValue f coef extra) hcells (arRegion_pairwise h w) hg hyx
  rw [← arPass_eq_sweep] at hval hdone
  have htaps : tapSum coef f.shifts.lag (Grid.at acc) y x =
      tapSum coef f.shifts.lag (Grid.at (arPass f coef extra h w g)) y x :=
    tapSum_congr (f.shifts.lag_le.trans hy) (f.shifts.lag_le.trans hx) fun r c hrc _ => hdone r c hrc
  rw [hval, arValue, arSum_eq_tapSum, htaps, hold]

/-! The finished grid of a layout. It stays a variable, so that no proof evaluates one. -/

section
variable {s : State} {lay : Layout} {seed : BitVec 16} {coef : Nat → Int} {extra : Nat → Nat → Int} {g : Grid × BitVec 16}
  (hg : g = grainGrid s lay seed coef extra)
include hg

theorem grainGrid_at_border {y x : Nat} (hy : y < lay.gridH) (hx : x < lay.gridW) (hyx : y < 3 ∨ x < 3 ∨ lay.gridW - 3 ≤ x) :
    Grid.at g.1 y x = s.initialGrain seed (y * lay.gridW + x) := by
  subst hg
  exact (arPass_border _ _ _ (fillGrid_shape ..) (by omega)).trans (fillGrid_eq_initialGrain s seed hy hx)

theorem grainGrid_at_inside {y x : Nat} (hyx : (y, x) ∈ arRegion lay.gridH lay.gridW) :
    Grid.at g.1 y x =
      clip3 (-(128 * 2 ^ s.frame.cfg.b8)) (128 * 2 ^ s.frame.cfg.b8 - 1)
        (s.initialGrain seed (y * lay.gridW + x) +
          round2 (tapSum coef s.frame.shifts.lag (Grid.at g.1) y x + extra y x) s.frame.shifts.arShift) := by
  subst hg
  obtain ⟨-, hy, -, hx⟩ := mem_arRegion.mp hyx
  rw [← fillGrid_eq_initialGrain s seed hy (Nat.lt_of_add_right_lt hx), ← Cfg.grainMin_eq, ← Cfg.grainMax_eq]
  exact arPass_recurrence _ _ _ (fillGrid_shape ..) hyx

/-- Every value fits a grain cell with room to spare. -/
theorem abs_grainGrid_at_le (hdepth : s.frame.cfg.bitdepth ≠ 3) {y x : Nat} (hy : y < lay.gridH) (hx : x < lay.gridW) :
    |Grid.at g.1 y x| ≤ 2048 := by
  by_cases hyx : (y, x) ∈ arRegion lay.gridH lay.gridW
  · have hpow := Cfg.two_pow_b8_le hdepth
    obtain ⟨hlow, hhigh⟩ := s.frame.cfg.clipped_bounded (s.initialGrain seed (y * lay.gridW + x) +
      round2 (tapSum coef s.frame.shifts.lag (Grid.at g.1) y x + extra y x) s.frame.shifts.arShift)
    rw [grainGrid_at_inside hg hyx, abs_le]
    omega
  · rw [mem_arRegion] at hyx
    rw [grainGrid_at_border hg hy hx (by omega)]
    exact (s.abs_initialGrain_le ..).trans (by exact_mod_cast Nat.div_le_self ..)

end

/-! A stored grid (41_grain_tables.md R126, R130) -/

section
variable {s t : State} {lay : Layout} {p : Nat} {seed : BitVec 16} {coef : Nat → Int} {extra : Nat → Nat → Int}
  {g : Grid × BitVec 16}

/-- The state that a GEN_GRAIN command leaves: its grid in plane `p`, its draws in PRNG_STATE, and the completion. -/
theorem storeGrid_completes (hg : g = grainGrid s lay seed coef extra) (ht : t = (s.storeGrid p g).afterCompletion) :
    t = { s.afterCompletion with grain := t.grain, prngState := lfsrAfter (lay.gridH * lay.gridW) seed } ∧
      (∀ r c, r < lay.gridH → c < lay.gridW → (grainAt t.grain p r c).isSome = true) ∧
      (∀ k, (∀ r c, r < lay.gridH → c < lay.gridW → k ≠ grainIndex p r c) → Cells.get t.grain k = Cells.get s.grain k) := by
  have hshape : Grid.Shape lay.gridH lay.gridW g.1 := hg ▸ grainGrid_shape ..
  have hstate : g.2 = lfsrAfter (lay.gridH * lay.gridW) seed := hg ▸ grainGrid_state ..
  obtain ⟨hcells, hframe⟩ := storeGrid_grain (s := s) (p := p) hshape lay.gridW_le
  clear hg
  subst ht
  rw [← hstate]
  refine ⟨storeGrid_afterCompletion s p g, fun r c hr hc => ?_, hframe⟩
  rw [grainAt, State.afterCompletion_grain, hcells r c hr hc]
  rfl

variable (hdepth : s.frame.cfg.bitdepth ≠ 3) (hg : g = grainGrid s lay seed coef extra)
  (ht : t = (s.storeGrid p g).afterCompletion)
include hdepth hg ht

/-- A stored cell reads its value: 16 bits lose nothing of it. -/
theorem storeGrid_grainAt {y x : Nat} (hy : y < lay.gridH) (hx : x < lay.gridW) :
    grainAt t.grain p y x = some (Grid.at g.1 y x) := by
  obtain ⟨hlow, hhigh⟩ := abs_le.mp (abs_grainGrid_at_le hg hdepth hy hx)
  have hshape : Grid.Shape lay.gridH lay.gridW g.1 := hg ▸ grainGrid_shape ..
  have hcell := (storeGrid_grain (s := s) (p := p) hshape lay.gridW_le).1 y x hy hx
  rw [grainAt, ht, State.afterCompletion_grain, hcell, Option.map_some,
    BitVec.toInt_ofInt_eq_self (by decide) (by omega) (by omega)]

theorem storeGrid_border {y x : Nat} (hy : y < lay.gridH) (hx : x < lay.gridW) (hyx : y < 3 ∨ x < 3 ∨ lay.gridW - 3 ≤ x) :
    grainAt t.grain p y x = some (s.initialGrain seed (y * lay.gridW + x)) := by
  rw [storeGrid_grainAt hdepth hg ht hy hx, grainGrid_at_border hg hy hx hyx]

theorem storeGrid_inside {y x : Nat} (hy3 : 3 ≤ y) (hy : y < lay.gridH) (hx3 : 3 ≤ x) (hx : x < lay.gridW - 3) :
    grainAt t.grain p y x =
      some (clip3 (-(128 * 2 ^ s.frame.cfg.b8)) (128 * 2 ^ s.frame.cfg.b8 - 1)
        (s.initialGrain seed (y * lay.gridW + x) +
          round2 (t.neighbourSum p coef s.frame.shifts.lag y x + extra y x) s.frame.shifts.arShift)) := by
  have hlag := s.frame.shifts.lag_le
  have htaps : t.neighbourSum p coef s.frame.shifts.lag y x = tapSum coef s.frame.shifts.lag (Grid.at g.1) y x := by
    rw [State.neighbourSum_eq_tapSum]
    refine tapSum_congr (hlag.trans hy3) (hlag.trans hx3) fun r c hrc hc => ?_
    unfold RasterBefore at hrc
    rw [State.grainCell, storeGrid_grainAt hdepth hg ht (by omega) (by omega), Option.getD_some]
  rw [htaps, storeGrid_grainAt hdepth hg ht hy (by omega), grainGrid_at_inside hg (mem_arRegion.mpr ⟨hy3, hy, hx3, by omega⟩)]

end

/-! Luma -/

/-- With a legal depth GEN_GRAIN_Y stores the luma grid. -/
theorem exec_genGrainY_eq {s : State} (hdepth : s.frame.cfg.bitdepth ≠ 3) :
    ∃ g, g = grainGrid s Layout.luma s.frame.seed (coefficient s.frame.arY) (fun _ _ => 0) ∧
      exec .genGrainY s = .next (s.storeGrid 0 g).afterCompletion :=
  ⟨lumaGrid s, rfl, (execGenGrainY_eq s).trans (if_neg (by simp [Cfg.depthIllegal_eq_false hdepth]))⟩

theorem exec_genGrainY_next {s t : State} (hdepth : s.frame.cfg.bitdepth ≠ 3) (h : exec .genGrainY s = .next t) :
    ∃ g, g = grainGrid s Layout.luma s.frame.seed (coefficient s.frame.arY) (fun _ _ => 0) ∧
      t = (s.storeGrid 0 g).afterCompletion := by
  obtain ⟨g, hg, hexec⟩ := exec_genGrainY_eq hdepth
  exact ⟨g, hg, Host.Outcome.next.inj (h.symm.trans hexec)⟩

/-- Settles O17: the stored grid is the 73 × 82 cells below number 73·82 of grain RAM. -/
theorem genGrainYFillsPlaneZero : Obligations.GenGrainYFillsPlaneZero := by
  intro s hdepth
  obtain ⟨g, hg, hexec⟩ := exec_genGrainY_eq hdepth
  obtain ⟨hstate, hfilled, hframe⟩ := storeGrid_completes hg rfl
  refine ⟨_, hexec, hstate, hfilled, fun k hk => hframe k fun r c hr hc => ?_⟩
  have hr' : r < 73 := hr
  have hc' : c < 82 := hc
  unfold grainIndex
  omega

/-- Settles O18: the AR pass leaves the border as it was filled. -/
theorem lumaBorderCellsKeepTheirDraw : Obligations.LumaBorderCellsKeepTheirDraw := by
  intro s t hdepth h y x hy hx hyx
  obtain ⟨g, hg, ht⟩ := exec_genGrainY_next hdepth h
  exact storeGrid_border hdepth hg ht hy hx hyx

/-- Settles O19: the taps of a cell are final when the pass in raster order visits it. -/
theorem lumaGrainObeysTheArRecurrence : Obligations.LumaGrainObeysTheArRecurrence := by
  intro s t hdepth h y x hy3 hy hx3 hx
  obtain ⟨g, hg, ht⟩ := exec_genGrainY_next hdepth h
  have hcell := storeGrid_inside hdepth hg ht hy3 hy hx3 hx
  rw [Int.add_zero] at hcell
  exact hcell

/-- Settles O23: inside by the clamp, on the border by the bound of an initial value. -/
theorem lumaGrainIsBounded : Obligations.LumaGrainIsBounded := by
  intro s t hdepth h
  constructor
  · intro y x hy3 hy hx3 hx
    rw [State.grainCell, lumaGrainObeysTheArRecurrence s t hdepth h y x hy3 hy hx3 hx, Option.getD_some]
    exact s.frame.cfg.clipped_bounded _
  · intro y x hy hx hyx most
    rw [State.grainCell, lumaBorderCellsKeepTheirDraw s t hdepth h y x hy hx hyx, Option.getD_some]
    obtain ⟨hlow, hhigh⟩ := abs_le.mp (s.abs_initialGrain_le s.frame.seed (y * 82 + x))
    exact ⟨neg_le_iff_add_nonneg'.mp hlow, hhigh⟩

/-! Chroma -/

theorem Layout.gridH_eq {lay : Layout} (hsy : lay.sy ≤ 1) : lay.gridH = 70 / 2 ^ lay.sy + 3 := by
  unfold Layout.gridH
  generalize lay.sy = e at hsy ⊢
  interval_cases e <;> rfl

theorem Layout.gridW_eq {lay : Layout} (hsx : lay.sx ≤ 1) : lay.gridW = 76 / 2 ^ lay.sx + 6 := by
  unfold Layout.gridW
  generalize lay.sx = e at hsx ⊢
  interval_cases e <;> rfl

/-- A sub-position of one of `n / 2 ^ e` positions is one of `n`. -/
theorem subsampled_lt {e n k i : Nat} (he : e ≤ 1) (hk : k < n / 2 ^ e) (hi : i < e + 1) : k <<< e + i < n := by
  rw [Nat.shiftLeft_eq]
  interval_cases e <;> omega

/-- The luma taps of a layout's AR region lie in rows 3..72 and columns 3..78 (41_grain_tables.md R128). -/
theorem lumaHeld_of_lumaGrainHeld {s : State} {lay : Layout} (hsx : lay.sx ≤ 1) (hsy : lay.sy ≤ 1)
    (h : s.lumaGrainHeld = true) : lumaHeld s lay = true := by
  simp only [State.lumaGrainHeld, List.all_eq_true, List.mem_range] at h
  simp only [lumaHeld, List.all_eq_true, Layout.gridH_eq hsy, Layout.gridW_eq hsx]
  rintro ⟨y, x⟩ hyx ⟨r, c⟩ hrc
  obtain ⟨hy3, hy, hx3, hx⟩ := mem_arRegion.mp hyx
  obtain ⟨i, hi, j, hj, rfl, rfl⟩ := mem_lumaTapCells.mp hrc
  rw [Nat.add_right_comm _ 3 i, Nat.add_right_comm _ 3 j]
  exact h _ (subsampled_lt hsy (by omega) hi) _ (subsampled_lt hsx (by omega) hj)

theorem chromaSeed_eq (seed : BitVec 16) (plane : Plane) :
    chromaSeed seed plane = seed ^^^ (match plane with | .u => 0xB524 | .v => 0x49D8) := by
  cases plane <;> rfl

theorem FrameRegs.arUV_eq (f : FrameRegs) (plane : Plane) : f.arUV plane = (match plane with | .u => f.arU | .v => f.arV) := by
  cases plane <;> rfl

theorem lumaTapAverage_eq (s : State) (lay : Layout) (y x : Nat) :
    lumaTapAverage s.grain lay y x = s.lumaGrainAverage lay y x := by
  simp [lumaTapAverage, lumaTapCells, State.lumaGrainAverage, State.grainCell, sumTo, Nat.shiftLeft_eq,
    List.flatMap_def, List.sum_flatten, Function.comp_def]

theorem lumaTapTerm_eq (s : State) (lay : Layout) (plane : Plane) (y x : Nat) :
    lumaTapTerm s lay plane y x =
      if s.frame.numPoints.numY = 0 then 0
      else s.lumaGrainAverage lay y x *
        coefficient (s.frame.arUV plane) (2 * s.frame.shifts.lag * (s.frame.shifts.lag + 1)) := by
  rw [lumaTapTerm, lumaTapAverage_eq]

/-- Settles O20: the luma cells read are among those held, so the command stores its grid. -/
theorem genGrainUVFillsItsPlane : Obligations.GenGrainUVFillsItsPlane := by
  intro i s lay plane hi hdepth hluma w h p seed
  obtain ⟨hsx, hsy⟩ := grainForm_subsampling hi
  obtain ⟨g, hg, hexec⟩ := genGrainUV_of_held (w := encode i) (plane := plane) (Cfg.depthIllegal_eq_false hdepth)
    (hluma.imp_right (lumaHeld_of_lumaGrainHeld hsx hsy))
  obtain ⟨hstate, hfilled, hframe⟩ := storeGrid_completes hg rfl
  rw [chromaSeed_eq] at hstate
  exact ⟨_, (exec_genGrainUV hi s).trans hexec, hstate, hfilled, hframe⟩

/-- Settles O21: the border by the fill, the AR region by the recurrence with the luma tap as its extra term. -/
theorem chromaGrainObeysTheArRecurrence : Obligations.ChromaGrainObeysTheArRecurrence := by
  intro i s t lay plane hi hdepth hexec w h p seed coef lag y x hy hx
  rw [exec_genGrainUV hi] at hexec
  rcases genGrainUV_next hexec with ⟨hillegal, -⟩ | ⟨-, -, g, hg, ht⟩
  · exact absurd (beq_iff_eq.mp hillegal) hdepth
  · have hseed : chromaSeed s.frame.seed plane = seed := chromaSeed_eq ..
    have hcoef : coefficient (s.frame.arUV plane) = coef := congrArg coefficient (FrameRegs.arUV_eq ..)
    rw [chromaGrid, hseed, hcoef] at hg
    refine ⟨storeGrid_border hdepth hg ht hy hx, fun hy3 hx3 hx => ?_⟩
    have hcell := storeGrid_inside hdepth hg ht hy3 hy hx3 hx
    rw [lumaTapTerm_eq, hcoef] at hcell
    exact hcell

end Sys2Proof.Machine
end

section
/-!
SUPPORT. The statements of 42_scaling.md: when a GEN_SCALING command takes its points, the value its points give each entry,
and what it stores.
-/

namespace Sys2Proof.Machine

/-! The command (42_scaling.md R140, R141, R145 to R147) -/

/-- The three GEN_SCALING commands in one form (42_scaling.md R145 to R147). -/
theorem exec_genScaling {i : Instr} {s : State} {tbl n nmax : Nat} {pt : Nat → Point}
    (h : scalingForm s i = some (tbl, n, nmax, pt)) :
    exec i s = genScaling (encode i) tbl n nmax ((List.range n).map pt) s := by
  cases i <;> simp only [scalingForm, reduceCtorEq, Option.some.injEq, Prod.mk.injEq] at h <;>
    obtain ⟨rfl, rfl, rfl, rfl⟩ := h <;> rfl

theorem pointOf_lt {m : Nat} (bank : Vector Word m) (k : Nat) : (pointOf bank k).x < 256 ∧ (pointOf bank k).y < 256 :=
  ⟨BitVec.isLt _, BitVec.isLt _⟩

/-- The points of a command are points of a bank, so their fields are bytes (10_state.md R38). -/
theorem scalingForm_point_lt {i : Instr} {s : State} {tbl n nmax : Nat} {pt : Nat → Point}
    (h : scalingForm s i = some (tbl, n, nmax, pt)) (k : Nat) : (pt k).x < 256 ∧ (pt k).y < 256 := by
  cases i <;> simp only [scalingForm, reduceCtorEq, Option.some.injEq, Prod.mk.injEq] at h <;>
    obtain ⟨-, -, -, rfl⟩ := h <;> exact pointOf_lt _ k

theorem pointsValid_iff {n nmax : Nat} {pt : Nat → Point} :
    pointsValid n nmax pt = true ↔ 2 ≤ n ∧ n ≤ nmax ∧ ∀ k, k + 1 < n → (pt k).x < (pt (k + 1)).x := by
  simp [pointsValid, and_assoc, Nat.lt_sub_iff_add_lt]

theorem pointsRise_map_range_iff {n : Nat} {pt : Nat → Point} :
    pointsRise ((List.range n).map pt) = true ↔ ∀ k, k + 1 < n → (pt k).x < (pt (k + 1)).x := by
  rw [pointsRise_iff]
  constructor
  · intro h k hk
    exact h k _ _ (by simp [Nat.lt_of_succ_lt hk]) (by simp [hk])
  · intro h k p q hp hq
    simp only [List.getElem?_map, Option.map_eq_some_iff, List.getElem?_eq_some_iff, List.length_range,
      List.getElem_range] at hp hq
    obtain ⟨_, ⟨-, rfl⟩, rfl⟩ := hp
    obtain ⟨_, ⟨hk, rfl⟩, rfl⟩ := hq
    exact h k hk

theorem pointsLegal_map_range (n nmax : Nat) (pt : Nat → Point) :
    pointsLegal n nmax ((List.range n).map pt) = pointsValid n nmax pt := by
  rw [Bool.eq_iff_iff, pointsValid_iff, ← pointsRise_map_range_iff]
  simp [pointsLegal, and_assoc]

/-- What a GEN_SCALING command does, by the legality of its points (42_scaling.md R141, R143). -/
theorem exec_genScaling_eq {i : Instr} {s : State} {tbl n nmax : Nat} {pt : Nat → Point}
    (h : scalingForm s i = some (tbl, n, nmax, pt)) :
    exec i s =
      if pointsValid n nmax pt then
        .next (s.setScaling (Cells.overlay (tableCells tbl ((List.range n).map pt)) s.scaling)).afterCompletion
      else .next (s.afterFault .badParam (encode i) 0) := by
  rw [exec_genScaling h, genScaling_eq, pointsLegal_map_range]

/-- Settles O25: each of the three faults makes the points invalid. -/
theorem genScalingRejectsBadPoints : Obligations.GenScalingRejectsBadPoints := by
  intro i s tbl n nmax pt h hbad
  rw [exec_genScaling_eq h, if_neg]
  rw [pointsValid_iff]
  rintro ⟨hlow, hhigh, hrise⟩
  rcases hbad with hn | hn | ⟨k, hk, hx⟩
  · exact absurd hlow (Nat.not_le.mpr hn)
  · exact absurd hhigh (Nat.not_le.mpr hn)
  · exact absurd (hrise k hk) (Nat.not_lt.mpr hx)

/-! The value of an entry (42_scaling.md R142) -/

theorem head_x_le_of_pointsRise {a p : Point} {rest : List Point} (h : pointsRise (a :: rest) = true) (hp : p ∈ a :: rest) :
    a.x ≤ p.x := by
  induction rest generalizing a with
  | nil => rw [List.mem_singleton.mp hp]
  | cons b rest ih =>
    simp only [pointsRise, Bool.and_eq_true, decide_eq_true_eq] at h
    obtain ⟨hab, htail⟩ := h
    rcases List.mem_cons.mp hp with rfl | hp
    · exact le_refl _
    · exact hab.le.trans (ih htail hp)

/-- Segments that end at or below v do not count at v. -/
theorem segmentsValue_eq_drop {pts : List Point} (h : pointsRise pts = true) {k v : Nat} (hk : k < pts.length)
    (hv : pts[k].x ≤ v) : segmentsValue pts v = segmentsValue (pts.drop k) v := by
  induction pts generalizing k with
  | nil => exact absurd hk (Nat.not_lt_zero k)
  | cons a rest ih =>
    cases k with
    | zero => rfl
    | succ k =>
      cases rest with
      | nil => simp at hk
      | cons b rest =>
        obtain ⟨-, htail⟩ := Bool.and_eq_true_iff.mp h
        have hk' : k < (b :: rest).length := Nat.lt_of_succ_lt_succ hk
        have hbv : b.x ≤ v := (head_x_le_of_pointsRise htail (List.getElem_mem hk')).trans hv
        rw [segmentsValue, if_neg (Nat.not_lt.mpr hbv)]
        exact ih htail hk' hv

theorem scalingValue_of_lt_head {p : Point} {rest : List Point} {v : Nat} (hv : v < p.x) :
    scalingValue (p :: rest) v = p.y := if_pos hv

theorem scalingValue_eq_drop {pts : List Point} (h : pointsRise pts = true) {k v : Nat} (hk : k < pts.length)
    (hv : pts[k].x ≤ v) : scalingValue pts v = segmentsValue (pts.drop k) v := by
  cases pts with
  | nil => exact absurd hk (Nat.not_lt_zero k)
  | cons a rest =>
    have hav : a.x ≤ v := (head_x_le_of_pointsRise h (List.getElem_mem hk)).trans hv
    rw [scalingValue, if_neg (Nat.not_lt.mpr hav), segmentsValue_eq_drop h hk hv]

section
variable {n : Nat} {pt : Nat → Point} (hrise : ∀ k, k + 1 < n → (pt k).x < (pt (k + 1)).x)
include hrise

/-- From the k-th point on, the value is that of the points from the k-th on. -/
theorem scalingValue_map_range_eq_drop {k v : Nat} (hk : k < n) (hv : (pt k).x ≤ v) :
    scalingValue ((List.range n).map pt) v = segmentsValue (pt k :: ((List.range n).map pt).drop (k + 1)) v := by
  have hlen : k < ((List.range n).map pt).length := by simpa using hk
  rw [scalingValue_eq_drop (pointsRise_map_range_iff.mpr hrise) hlen (by simpa using hv), List.drop_eq_getElem_cons hlen]
  simp

/-- Entry j of the segment from point k to the next. -/
theorem scalingValue_segment {k v : Nat} (hk : k + 1 < n) (hlow : (pt k).x ≤ v) (hhigh : v < (pt (k + 1)).x) :
    scalingValue ((List.range n).map pt) v = segmentValue (pt k) (pt (k + 1)) (v - (pt k).x) := by
  have hlen : k + 1 < ((List.range n).map pt).length := by simpa using hk
  rw [scalingValue_map_range_eq_drop hrise (Nat.lt_of_succ_lt hk) hlow, List.drop_eq_getElem_cons hlen, List.getElem_map,
    List.getElem_range, segmentsValue, if_pos hhigh]

theorem scalingValue_last {v : Nat} (hn : 0 < n) (hv : (pt (n - 1)).x ≤ v) :
    scalingValue ((List.range n).map pt) v = (pt (n - 1)).y := by
  rw [scalingValue_map_range_eq_drop hrise (Nat.sub_one_lt_of_lt hn) hv, List.drop_of_length_le, segmentsValue]
  simp [Nat.sub_add_cancel hn]

end

theorem scalingValue_first {n : Nat} {pt : Nat → Point} {v : Nat} (hn : 0 < n) (hv : v < (pt 0).x) :
    scalingValue ((List.range n).map pt) v = (pt 0).y := by
  obtain ⟨m, rfl⟩ := Nat.exists_eq_add_one.mpr hn
  rw [List.range_succ_eq_map, List.map_cons, scalingValue_of_lt_head hv]

/-! A segment stays between its strengths (42_scaling.md R142) -/

theorem segmentValue_eq_div (p q : Point) (j : Nat) :
    segmentValue p q j =
      p.y + ((j : Int) * (((q.y : Int) - p.y) * ((65536 + (q.x - p.x) / 2) / (q.x - p.x) : Nat)) + 32768) / 65536 := by
  simp [segmentValue, Int.shiftRight_eq_div_pow, Nat.shiftRight_eq_div_pow]

/-- The rounded reciprocal of a segment's width never carries a step past the segment's end. -/
theorem mul_reciprocal_le {dx j : Nat} (hdx : dx < 256) (hj : j < dx) : j * ((65536 + dx / 2) / dx) ≤ 65536 := by
  generalize hr : (65536 + dx / 2) / dx = r
  have hupper : r * dx ≤ 65536 + dx / 2 := hr ▸ Nat.div_mul_le_self ..
  have hlower : 128 ≤ r := hr ▸ (Nat.le_div_iff_mul_le (by omega)).mpr (by omega)
  have hstep : (j + 1) * r ≤ dx * r := Nat.mul_le_mul_right r hj
  rw [Nat.add_mul, Nat.mul_comm dx] at hstep
  omega

/-- A rounded part m / 65536 of the way from a to b lies between them. -/
theorem interpolation_between {a b m : Int} (hm0 : 0 ≤ m) (hm : m ≤ 65536) :
    min a b ≤ a + ((b - a) * m + 32768) / 65536 ∧ a + ((b - a) * m + 32768) / 65536 ≤ max a b := by
  rcases le_total a b with hab | hba
  · have hlow : 0 ≤ (b - a) * m := mul_nonneg (sub_nonneg.mpr hab) hm0
    have hhigh : (b - a) * m ≤ (b - a) * 65536 := mul_le_mul_of_nonneg_left hm (sub_nonneg.mpr hab)
    omega
  · have hlow : (b - a) * 65536 ≤ (b - a) * m := mul_le_mul_of_nonpos_left hm (sub_nonpos.mpr hba)
    have hhigh : (b - a) * m ≤ 0 := mul_nonpos_of_nonpos_of_nonneg (sub_nonpos.mpr hba) hm0
    omega

theorem segmentValue_between {p q : Point} {j : Nat} (hq : q.x < 256) (hj : j < q.x - p.x) :
    min (p.y : Int) q.y ≤ segmentValue p q j ∧ segmentValue p q j ≤ max (p.y : Int) q.y := by
  rw [segmentValue_eq_div, mul_left_comm, ← Nat.cast_mul]
  exact interpolation_between (Int.natCast_nonneg _) (mod_cast mul_reciprocal_le (by omega) hj)

/-! The stored table (42_scaling.md R143) -/

/-- A stored entry reads back as its value where the value is a byte. -/
theorem scalingAt_overlay_table {tbl v : Nat} (hv : v < 256) {pts : List Point} {e : Int} (he : scalingValue pts v = e)
    (h0 : 0 ≤ e) (h255 : e < 256) (old : Cells 8) :
    scalingAt (Cells.overlay (tableCells tbl pts) old) tbl v = some e := by
  rw [scalingAt, get_overlay_table hv, he, Option.map_some, BitVec.toNat_ofInt]
  congr 1
  omega

section
variable {n : Nat} {pt : Nat → Point} (hlt : ∀ k, (pt k).x < 256 ∧ (pt k).y < 256)
include hlt

theorem scalingAt_table_first {tbl v : Nat} (hn : 0 < n) (hv : v < (pt 0).x) (old : Cells 8) :
    scalingAt (Cells.overlay (tableCells tbl ((List.range n).map pt)) old) tbl v = some ((pt 0).y : Int) := by
  obtain ⟨hx, hy⟩ := hlt 0
  exact scalingAt_overlay_table (hv.trans hx) (scalingValue_first hn hv) (Int.natCast_nonneg _) (mod_cast hy) old

variable (hrise : ∀ k, k + 1 < n → (pt k).x < (pt (k + 1)).x)
include hrise

theorem scalingAt_table_segment {tbl k v : Nat} (hk : k + 1 < n) (hlow : (pt k).x ≤ v) (hhigh : v < (pt (k + 1)).x)
    (old : Cells 8) :
    scalingAt (Cells.overlay (tableCells tbl ((List.range n).map pt)) old) tbl v =
      some (segmentValue (pt k) (pt (k + 1)) (v - (pt k).x)) := by
  obtain ⟨-, hy⟩ := hlt k
  obtain ⟨hx', hy'⟩ := hlt (k + 1)
  obtain ⟨hmin, hmax⟩ := segmentValue_between (p := pt k) hx' (Nat.sub_lt_sub_right hlow hhigh)
  exact scalingAt_overlay_table (hhigh.trans hx') (scalingValue_segment hrise hk hlow hhigh) (by omega) (by omega) old

theorem scalingAt_table_last {tbl v : Nat} (hn : 0 < n) (hlow : (pt (n - 1)).x ≤ v) (hv : v < 256) (old : Cells 8) :
    scalingAt (Cells.overlay (tableCells tbl ((List.range n).map pt)) old) tbl v = some ((pt (n - 1)).y : Int) := by
  obtain ⟨-, hy⟩ := hlt (n - 1)
  exact scalingAt_overlay_table hv (scalingValue_last hrise hn hlow) (Int.natCast_nonneg _) (mod_cast hy) old

end

/-- Settles O24: every entry is the value that the list of points gives it, and that value is a byte. -/
theorem genScalingBuildsItsTable : Obligations.GenScalingBuildsItsTable := by
  intro i s tbl n nmax pt hi hvalid
  obtain ⟨hn, -, hrise⟩ := pointsValid_iff.mp hvalid
  have hlt := scalingForm_point_lt hi
  have hpos : 0 < n := by omega
  refine ⟨_, (exec_genScaling_eq hi).trans (if_pos hvalid), rfl, fun v hv => scalingAt_table_first hlt hpos hv _,
    fun k j hk hj => ?_, fun v hlow hv => scalingAt_table_last hlt hrise hpos hlow hv _,
    fun k hk => get_overlay_table_of_outside hk _ _⟩
  have hentry := scalingAt_table_segment (tbl := tbl) hlt hrise hk (Nat.le_add_right _ j) (by omega) s.scaling
  rw [Nat.add_sub_cancel_left, segmentValue_eq_div] at hentry
  exact hentry

/-- Settles O26: the entry is the segment's value, which the rounding keeps between the strengths. -/
theorem scalingEntriesLieBetweenTheirStrengths : Obligations.ScalingEntriesLieBetweenTheirStrengths := by
  intro i s t tbl n nmax pt hi hvalid hexec k v hk hlow hhigh
  obtain ⟨-, -, hrise⟩ := pointsValid_iff.mp hvalid
  have hlt := scalingForm_point_lt hi
  obtain rfl := Host.Outcome.next.inj (((exec_genScaling_eq hi).trans (if_pos hvalid)).symm.trans hexec)
  exact ⟨_, scalingAt_table_segment hlt hrise hk hlow hhigh _,
    segmentValue_between (hlt (k + 1)).1 (Nat.sub_lt_sub_right hlow hhigh)⟩

end Sys2Proof.Machine
end

section
/-!
SUPPORT. The statements of 43_apply_luma.md: where the grain cells of an APPLY command lie, the range of its results, and the
samples that a completed band leaves in memory.
-/

namespace Sys2Proof.Machine

variable {i : Instr} {s u : State} {lay : Layout} {uv : Bool} {p t X y : Nat} {a b : Word}

/-! The grain cells read (43_apply_luma.md R152, R153, R159) -/

/-- Along one axis, subsampled `e` times, the cells of a block with 4-bit offset `h`: position `k` in the block itself
(`c` = 0) or in the strip that reaches over from its neighbour (`c` = 1). -/
theorem grainAxis_bounds {e h k c r : Nat} (hh : h ≤ 15) (hc : c ≤ 1) (hk : k < 32 / 2 ^ e)
    (hstrip : c = 1 → k < 2 / 2 ^ e) (hr : r = 3 + (2 >>> e) * (3 + h) + k + (32 >>> e) * c) :
    (e = 0 → 9 ≤ r ∧ r ≤ 72) ∧ (e = 1 → 6 ≤ r ∧ r ≤ 37) := by
  constructor
  · rintro rfl
    omega
  · rintro rfl
    omega

/-- The horizontal part of an offset draw, rv[7:4], has 4 bits. -/
theorem blockOffset_high_le (seed : BitVec 16) (n b : Nat) : blockOffset seed n b >>> 4 ≤ 15 := by
  have h : blockOffset seed n b < 2 ^ 8 := draw_snd_lt _ 8
  rw [Nat.shiftRight_eq_div_pow]
  omega

/-- Settles O34: the bounds of an axis, for the rows and for the columns. -/
theorem grainCellsReadLieInsideTheGrid : Obligations.GrainCellsReadLieInsideTheGrid := by
  intro s lay hlay b c i x y hc hi hx hy hleft habove
  obtain ⟨hrow0, hrow1⟩ := grainAxis_bounds Nat.and_le_right hi hy habove rfl
  obtain ⟨hcol0, hcol1⟩ := grainAxis_bounds (blockOffset_high_le _ _ _) hc hx hleft rfl
  exact ⟨hrow0, hrow1, hcol0, hcol1⟩

/-! The range of the results (43_apply_luma.md R156, 44_apply_chroma.md R178) -/

theorem ite_clip3 (restricted : Prop) [Decidable restricted] (lo hi lo' hi' v : Int) :
    (if restricted then clip3 lo hi v else clip3 lo' hi' v) =
      clip3 (if restricted then (lo, hi) else (lo', hi')).1 (if restricted then (lo, hi) else (lo', hi')).2 v := by
  split <;> rfl

/-- Every result of an APPLY command is a value clipped to its output range. -/
theorem applyResult_eq_clip3 (hf : applyForm s i = some (lay, uv, p, t)) (X y : Nat) :
    ∃ v, s.applyResult X y i = clip3 (s.outputRange i).1 (s.outputRange i).2 v := by
  cases i with
  | applyY => exact ⟨_, ite_clip3 ..⟩
  | applyUV420 plane isId => exact ⟨_, ite_clip3 ..⟩
  | applyUV422 plane isId => exact ⟨_, ite_clip3 ..⟩
  | applyUV444 plane isId => exact ⟨_, ite_clip3 ..⟩
  | _ => cases hf

/-- The output range of an APPLY command; the restricted ones differ in their upper end only. -/
theorem outputRange_eq (hf : applyForm s i = some (lay, uv, p, t)) :
    ∃ top : Int, (top = 235 ∨ top = 240) ∧
      s.outputRange i =
        if s.frame.cfg.clipRestricted then (16 * 2 ^ s.frame.cfg.b8, top * 2 ^ s.frame.cfg.b8)
        else (0, 2 ^ s.frame.cfg.bd - 1) := by
  cases i with
  | applyY => exact ⟨235, Or.inl rfl, rfl⟩
  | applyUV420 plane isId => exact ⟨_, ite_eq_or_eq _ _ _, rfl⟩
  | applyUV422 plane isId => exact ⟨_, ite_eq_or_eq _ _ _, rfl⟩
  | applyUV444 plane isId => exact ⟨_, ite_eq_or_eq _ _ _, rfl⟩
  | _ => cases hf

theorem Cfg.two_pow_bd (c : Cfg) : (2 : Int) ^ c.bd = 256 * 2 ^ c.b8 := by
  rw [Cfg.b8, Cfg.bd, Nat.add_sub_cancel_left, pow_add]
  norm_num

/-- An output range is not empty and lies in the range of a sample. -/
theorem outputRange_bounds (hf : applyForm s i = some (lay, uv, p, t)) :
    0 ≤ (s.outputRange i).1 ∧ (s.outputRange i).1 ≤ (s.outputRange i).2 ∧ (s.outputRange i).2 < 2 ^ s.frame.cfg.bd := by
  have hpos : (0 : Int) < 2 ^ s.frame.cfg.b8 := by positivity
  obtain ⟨top, htop, hrange⟩ := outputRange_eq hf
  rw [hrange, Cfg.two_pow_bd]
  split
  · rcases htop with rfl | rfl <;> dsimp only <;> omega
  · dsimp only
    omega

/-- Every result of an APPLY command lies in its output range. -/
theorem applyResult_bounds (hf : applyForm s i = some (lay, uv, p, t)) (X y : Nat) :
    (s.outputRange i).1 ≤ s.applyResult X y i ∧ s.applyResult X y i ≤ (s.outputRange i).2 := by
  obtain ⟨v, hv⟩ := applyResult_eq_clip3 hf X y
  obtain ⟨-, hrange, -⟩ := outputRange_bounds hf
  rw [hv]
  exact clip3_bounded hrange v

theorem Cfg.container_cases (c : Cfg) : c.container = 1 ∧ c.bd = 8 ∨ c.container = 2 := by
  unfold Cfg.container
  split <;> simp_all

/-- A sample value fits its container (20_memory.md R66). -/
theorem Cfg.two_pow_bd_le (c : Cfg) : 2 ^ c.bd ≤ 256 ^ c.container := by
  rcases Cfg.container_cases c with ⟨hsize, hbd⟩ | hsize
  · rw [hsize, hbd]; decide
  · have hbd : c.bd ≤ 16 := by have := c.bitdepth.isLt; unfold Cfg.bd; omega
    rw [hsize]
    exact Nat.pow_le_pow_right (by decide) hbd

theorem applyResult_nonneg (hf : applyForm s i = some (lay, uv, p, t)) (X y : Nat) : 0 ≤ s.applyResult X y i :=
  (outputRange_bounds hf).1.trans (applyResult_bounds hf X y).1

/-- So the container holds every result whole. -/
theorem applyResult_lt (hf : applyForm s i = some (lay, uv, p, t)) (X y : Nat) :
    (s.applyResult X y i).toNat < 256 ^ s.frame.cfg.container := by
  obtain ⟨-, -, hmax⟩ := outputRange_bounds hf
  obtain ⟨-, hle⟩ := applyResult_bounds hf X y
  refine lt_of_lt_of_le ((Int.toNat_lt (applyResult_nonneg hf X y)).mpr ?_) (Cfg.two_pow_bd_le _)
  exact_mod_cast hle.trans_lt hmax

/-! The dst samples of a band share no byte (20_memory.md R67, R68, R72) -/

theorem toNat_mod_two_of_getLsbD (h : a.getLsbD 0 = false) : a.toNat % 2 = 0 := by
  simpa [BitVec.getLsbD, Nat.testBit_zero] using h

/-- Aligned 2-byte samples have even addresses. -/
theorem sampleAddr_even {base stride : Word} (hbase : base.toNat % 2 = 0) (hstride : stride.toNat % 2 = 0) (x y : Nat) :
    (sampleAddr base stride 2 x y).toNat % 2 = 0 := by
  have hdvd : stride.toInt % 2 = 0 := by rw [BitVec.toInt_eq_toNat_cond]; split <;> omega
  have hrow : (y : Int) * stride.toInt % 2 = 0 := by rw [Int.mul_emod, hdvd]; simp
  rw [sampleAddr, BitVec.toNat_ofInt]
  omega

/-- Two samples of one band at different addresses share no byte: 2-byte samples stand at even addresses. -/
theorem byteAddrs_disjoint {size : Nat} (hne : a ≠ b) (h : size = 1 ∨ size = 2 ∧ a.toNat % 2 = 0 ∧ b.toNat % 2 = 0) :
    ∀ c ∈ byteAddrs a size, c ∉ byteAddrs b size := by
  rcases h with rfl | ⟨rfl, ha, hb⟩
  · simpa [byteAddrs] using hne
  · intro c hca hcb
    simp only [byteAddrs, List.mem_cons, List.not_mem_nil, or_false] at hca hcb
    rcases hca with rfl | rfl <;> rcases hcb with hcb | hcb <;> bv_omega

theorem geometryOk_of_bandReady (hf : applyForm s i = some (lay, uv, p, t)) (h : s.bandReady i = true) :
    s.geometryOk lay uv = true := by
  simp only [State.bandReady, hf, State.bandAdmitted, Bool.and_eq_true] at h
  obtain ⟨⟨⟨⟨-, hgeometry⟩, -⟩, -⟩, -⟩ := h
  exact hgeometry

/-- A legal job with 2-byte samples has all its dst samples at even addresses (20_memory.md R68). -/
theorem dstAddr_aligned (h : s.geometryOk lay uv = true) :
    s.frame.cfg.container = 1 ∨ s.frame.cfg.container = 2 ∧ ∀ X y, (s.dstAddr X y).toNat % 2 = 0 := by
  rcases Cfg.container_cases s.frame.cfg with ⟨hsize, -⟩ | hsize
  · exact Or.inl hsize
  · refine Or.inr ⟨hsize, fun X y => ?_⟩
    simp only [State.geometryOk, State.aligned, hsize, Nat.reduceBEq, Bool.false_or, Bool.and_eq_true,
      Bool.not_eq_true'] at h
    obtain ⟨-, ⟨⟨-, hdst⟩, hstride⟩, -⟩ := h
    rw [State.dstAddr, hsize]
    exact sampleAddr_even (toNat_mod_two_of_getLsbD hdst) (toNat_mod_two_of_getLsbD hstride) X y

/-- Two dst samples of a legal job are at one address or share no byte. -/
theorem dstAddr_eq_or_disjoint (h : s.geometryOk lay uv = true) (X y X' y' : Nat) :
    s.dstAddr X y = s.dstAddr X' y' ∨
      ∀ c ∈ byteAddrs (s.dstAddr X y) s.frame.cfg.container, c ∉ byteAddrs (s.dstAddr X' y') s.frame.cfg.container :=
  or_iff_not_imp_left.mpr fun hne => byteAddrs_disjoint hne
    ((dstAddr_aligned h).imp_right fun ⟨hsize, heven⟩ => ⟨hsize, heven X y, heven X' y'⟩)

/-! What an APPLY command that nothing stops does (43_apply_luma.md R155, R160, 44_apply_chroma.md R176) -/

section

variable (hf : applyForm s i = some (lay, uv, p, t)) (hready : s.bandReady i = true)
include hf hready

theorem exec_apply_completes : ∃ u, exec i s = .next u ∧ u = { s.afterCompletion with mem := u.mem } :=
  ⟨_, exec_apply_of_ready hf hready, rfl⟩

/-- Each dst sample of a completed band reads as its result. -/
theorem memRead_dstAddr_of_exec (hdistinct : s.dstDistinct) (h : exec i s = .next u) (hX : X < s.pw) (hy : y < s.bh) :
    memRead u.mem (s.dstAddr X y) s.frame.cfg.container = (s.applyResult X y i).toNat := by
  obtain rfl := Host.Outcome.next.inj ((exec_apply_of_ready hf hready).symm.trans h)
  have hb := Layout.blockW_pos (applyForm_layout hf)
  have hsize : s.frame.cfg.container ≤ 2 := by rcases Cfg.container_cases s.frame.cfg with ⟨h, -⟩ | h <;> omega
  refine memRead_writeSamples (w := ⟨s.dstAddr X y, (s.applyResult X y i).toNat⟩) hsize
    (List.mem_map.mpr ⟨(X, y), (mem_bandSamples hb).mpr ⟨hX, hy⟩, rfl⟩) (applyResult_lt hf X y) ?_ s.mem
  intro w hw
  obtain ⟨⟨X', y'⟩, hc, rfl⟩ := List.mem_map.mp hw
  obtain ⟨hX', hy'⟩ := (mem_bandSamples hb).mp hc
  refine (dstAddr_eq_or_disjoint (geometryOk_of_bandReady hf hready) X y X' y').imp_left fun heq => ?_
  obtain ⟨rfl, rfl⟩ := hdistinct X y X' y' hX hy hX' hy' heq
  rfl

end

/-- Settles O27: the command completes, its dst samples read as their results, and the rest is the frame of every APPLY
command. -/
theorem applyYAddsScaledGrain : Obligations.ApplyYAddsScaledGrain := by
  intro s hready
  have hf : applyForm s .applyY = some (Layout.luma, false, 0, 0) := rfl
  obtain ⟨t, hexec, ht⟩ := exec_apply_completes hf hready
  exact ⟨t, hexec, ht, (applyLeavesAllButItsDstFootprint .applyY s t _ _ _ _ hf hexec).2,
    fun hdistinct X y hX hy => memRead_dstAddr_of_exec hf hready hdistinct hexec hX hy⟩

/-- Settles O35: the outputs are the results, and these are clipped. -/
theorem outputsLieInTheClipRange : Obligations.OutputsLieInTheClipRange := by
  intro i s u lay uv p t hf hready hdistinct hexec X y hX hy
  rw [memRead_dstAddr_of_exec hf hready hdistinct hexec hX hy, Int.toNat_of_nonneg (applyResult_nonneg hf X y)]
  exact applyResult_bounds hf X y

/-- Settles O37: no result depends on DST_ADDR. -/
theorem inPlaceEqualsSeparateBuffers : Obligations.InPlaceEqualsSeparateBuffers := by
  intro i s u u' lay uv p t hf s' hready hready' hdistinct hdistinct' hexec hexec' X y hX hy
  have hf' : applyForm s' i = some (lay, uv, p, t) := hf
  have hresult : s'.applyResult X y i = s.applyResult X y i := rfl
  have hinPlace := memRead_dstAddr_of_exec hf' hready' hdistinct' hexec' hX hy
  rw [memRead_dstAddr_of_exec hf hready hdistinct hexec hX hy, ← hresult]
  exact hinPlace.symm

/-! Bands of another width and height (43_apply_luma.md R161) -/

/-- `s` with a band of another width and height. -/
def State.withSize (s : State) (width : BitVec 16) (height : BitVec 6) : State :=
  { s with job := { s.job with width := width, height := height } }

/-- A strip that is cut to the `n` samples that exist takes in the same ones of them as the whole strip. -/
theorem cutStrip_le_iff {overlapped : Prop} [Decidable overlapped] {k n : Nat} (hk : k < n) (strip : Nat) :
    (if overlapped then min strip n else 0) ≤ k ↔ (overlapped → strip ≤ k) := by
  split
  · next h => simp only [h, true_implies]; omega
  · next h => simp [h]

theorem xStart_le_iff (hb : 0 < lay.blockW) (hX : X < s.pw) :
    xStart s lay (X / lay.blockW) ≤ X % lay.blockW ↔
      ((s.frame.cfg.overlap && decide (0 < X / lay.blockW)) = true → 2 >>> lay.sx ≤ X % lay.blockW) := by
  have hin : X % lay.blockW < blockWidth lay s.pw (X / lay.blockW) := by
    have hdm := Nat.div_add_mod' X lay.blockW
    have hm := Nat.mod_lt X hb
    unfold blockWidth
    omega
  exact cutStrip_le_iff hin _

theorem yStart_le_iff (hy : y < s.bh) :
    yStart s lay ≤ y ↔ ((s.frame.cfg.overlap && decide (s.job.rowNum ≠ 0)) = true → 2 >>> lay.sy ≤ y) :=
  cutStrip_le_iff hy _

section

variable {width : BitVec 16} {height : BitVec 6} (hX : X < s.pw) (hy : y < s.bh)
  (hX' : X < (s.withSize width height).pw) (hy' : y < (s.withSize width height).bh)
include hX hy hX' hy'

/-- The size of the band enters a grain value only through the strips, which are cut to samples that exist. -/
theorem grainResult_withSize (hb : 0 < lay.blockW) (p : Nat) :
    (s.withSize width height).grainResult lay p X y = s.grainResult lay p X y := by
  have hcols : xStart (s.withSize width height) lay (X / lay.blockW) ≤ X % lay.blockW ↔
      xStart s lay (X / lay.blockW) ≤ X % lay.blockW := (xStart_le_iff hb hX').trans (xStart_le_iff hb hX).symm
  have hrows : yStart (s.withSize width height) lay ≤ y ↔ yStart s lay ≤ y := (yStart_le_iff hy').trans (yStart_le_iff hy).symm
  simp only [State.grainResult, hcols, hrows]
  rfl

theorem lumaResult_withSize : (s.withSize width height).lumaResult X y = s.lumaResult X y := by
  simp only [State.lumaResult, grainResult_withSize hX hy hX' hy' (show 0 < Layout.luma.blockW by decide)]
  rfl

theorem chromaResult_withSize (hb : 0 < lay.blockW) (plane : Plane) (isId : Bool) :
    (s.withSize width height).chromaResult lay plane isId X y = s.chromaResult lay plane isId X y := by
  simp only [State.chromaResult, grainResult_withSize hX hy hX' hy' hb]
  rfl

theorem applyResult_withSize (i : Instr) : (s.withSize width height).applyResult X y i = s.applyResult X y i := by
  cases i with
  | applyY => exact lumaResult_withSize hX hy hX' hy'
  | applyUV420 plane isId => exact chromaResult_withSize hX hy hX' hy' (by decide) plane isId
  | applyUV422 plane isId => exact chromaResult_withSize hX hy hX' hy' (by decide) plane isId
  | applyUV444 plane isId => exact chromaResult_withSize hX hy hX' hy' (by decide) plane isId
  | _ => rfl

end

/-- Settles O36: no result depends on the size of the band. -/
theorem edgeBlocksAreConsistent : Obligations.EdgeBlocksAreConsistent := by
  intro i s u u' lay uv p t width height hf s' hready hready' hdistinct hdistinct' hexec hexec' X y hX hy hX' hy'
  have hf' : applyForm s' i = some (lay, uv, p, t) := hf
  have hresult : s'.applyResult X y i = s.applyResult X y i := applyResult_withSize hX hy hX' hy' i
  have hother := memRead_dstAddr_of_exec hf' hready' hdistinct' hexec' hX' hy'
  rw [memRead_dstAddr_of_exec hf hready hdistinct hexec hX hy, ← hresult]
  exact hother.symm

end Sys2Proof.Machine
end

section
/-!
SUPPORT. The statement of 44_apply_chroma.md: the samples that a completed APPLY_UV command leaves in memory.
-/

namespace Sys2Proof.Machine

/-- The layout and the output samples of the three APPLY_UV commands (44_apply_chroma.md R170, R176). -/
theorem applyUV_form_and_result {s : State} {plane : Plane} {isId : Bool} {c : Instr × Layout}
    (hc : c ∈ [(Instr.applyUV420 plane isId, Layout.l420), (Instr.applyUV422 plane isId, Layout.l422),
      (Instr.applyUV444 plane isId, Layout.l444)]) :
    applyForm s c.1 = some (c.2, true, 1 + Plane.index plane, s.chromaTable plane) ∧
      ∀ X y, s.applyResult X y c.1 = s.chromaResult c.2 plane isId X y := by
  simp only [List.mem_cons, List.not_mem_nil, or_false] at hc
  rcases hc with rfl | rfl | rfl
  · exact ⟨rfl, fun _ _ => rfl⟩
  · exact ⟨rfl, fun _ _ => rfl⟩
  · exact ⟨rfl, fun _ _ => rfl⟩

/-- Settles O28: as for APPLY_Y the command completes with the frame of every APPLY command, and its dst samples read as its
results, which are those of the layout and plane. -/
theorem applyUVAddsScaledGrain : Obligations.ApplyUVAddsScaledGrain := by
  intro s plane isId c hc hready
  obtain ⟨hf, hresult⟩ := applyUV_form_and_result (s := s) hc
  obtain ⟨t, hexec, ht⟩ := exec_apply_completes hf hready
  refine ⟨t, hexec, ht, (applyLeavesAllButItsDstFootprint c.1 s t _ _ _ _ hf hexec).2, fun hdistinct X y hX hy => ?_⟩
  rw [← hresult]
  exact memRead_dstAddr_of_exec hf hready hdistinct hexec hX hy

end Sys2Proof.Machine
end

section
/-!
SUPPORT. The statement of 45_control.md: the word and the effect of NOP.
-/

namespace Sys2Proof.Machine

/-- NOP is the one command of OPCODE 0x00, and the bits above OPCODE are 0 in its word (45_control.md R190). -/
theorem decode_error_of_opcode_zero {w : Word} (hop : w.toNat % 256 = 0) (hw : w ≠ 0) : ∃ e, decode w = .error e := by
  have hrest : w.toNat / 256 % 4 ≠ 0 ∨ w.toNat / 1024 ≠ 0 := by
    by_contra! hzero
    obtain ⟨hsel, hhigh⟩ := hzero
    have hnat : w.toNat = 0 := by omega
    exact hw (BitVec.eq_of_toNat_eq hnat)
  apply (reservedEncodingsAreIllegal w).mp
  rcases hrest with hsel | hhigh
  · simp [hop, hsel]
  · simp [hop, hhigh]

/-- Settles O13: NOP only completes, and the engine's step on the other words of OPCODE 0x00 is that on an illegal word. -/
theorem nopCompletesWithoutEffect : Obligations.NopCompletesWithoutEffect := by
  refine ⟨fun s => ?_, fun w hop hw s rest he hc => ?_⟩
  · exact congrArg Host.Outcome.next s.complete_eq
  · exact step_of_illegal (decode_error_of_opcode_zero hop hw) he hc

end Sys2Proof.Machine
end

section
/-!
SUPPORT. The statements of 60_exceptions.md: how a command ends, the geometry checks of an APPLY job, the host's accesses while
BUSY = 1, and the idle block (R201, R203, R205, R206, R212, R220).
-/

namespace Sys2Proof.Machine

/-! The end of a command (60_exceptions.md R201, R203, R212) -/

/-- The first fault wins. -/
theorem afterFault_keeps_first_record (s : State) (code : FaultCode) (info addr : Word) (h : s.status.fault = true) :
    (s.afterFault code info addr).status.faultCode = s.status.faultCode ∧
      (s.afterFault code info addr).faultInfo = s.faultInfo ∧ (s.afterFault code info addr).faultAddr = s.faultAddr := by
  simp [h]

/-- Settles O10, by the ways a command can end: completed, or faulted with the first record kept. -/
theorem everyCommandEndsCompletedOrFaulted : Obligations.EveryCommandEndsCompletedOrFaulted := by
  intro i s t h
  cases exec_ends h with
  | nop | prngLoad | prngStep | grain | scaling | band => exact ⟨rfl, rfl, Or.inl ⟨rfl, rfl, rfl, rfl, rfl⟩⟩
  | faulted code addr =>
    exact ⟨rfl, rfl, Or.inr ⟨rfl, rfl, afterFault_keeps_first_record s code (encode i) addr⟩⟩
  | bandFaulted lay code addr =>
    exact ⟨rfl, rfl, Or.inr ⟨rfl, rfl, afterFault_keeps_first_record (s.unspecify (s.dstBytes lay)) code (encode i) addr⟩⟩

/-! Geometry (60_exceptions.md R205, 20_memory.md R68) -/

section

variable {i : Instr} {s u : State} {lay : Layout} {uv : Bool} {p t : Nat}

/-- An address or stride that R68 does not allow at 2-byte samples. -/
def State.Misaligned (s : State) (uv : Bool) : Prop :=
  s.frame.cfg.bitdepth ≠ 0 ∧
    (s.job.srcAddr.toNat % 2 = 1 ∨ s.job.dstAddr.toNat % 2 = 1 ∨ s.job.stride.toNat % 2 = 1 ∨
      (uv = true ∧ (s.job.lumaAddr.toNat % 2 = 1 ∨ s.job.lumaStride.toNat % 2 = 1)))

/-- A job that R205 rejects, by its size or its alignment. -/
def State.BadGeometry (s : State) (lay : Layout) (uv : Bool) : Prop :=
  s.job.width = 0 ∨ s.job.height = 0 ∨ 32 / 2 ^ lay.sy < s.job.height.toNat ∨ s.Misaligned uv

theorem Cfg.container_eq_one_iff (c : Cfg) : c.container = 1 ↔ c.bitdepth = 0 := by
  have hzero : c.bitdepth = 0 ↔ c.bitdepth.toNat = 0 := (BitVec.toNat_inj (y := 0#2)).symm
  unfold Cfg.container Cfg.bd
  rw [hzero]
  split <;> omega

theorem getLsbD_zero_iff_odd (w : Word) : w.getLsbD 0 = true ↔ w.toNat % 2 = 1 := by
  rw [getLsbD_iff_toNat, Nat.pow_zero, Nat.div_one]

theorem aligned_eq_false_iff : s.aligned uv = false ↔ s.Misaligned uv := by
  simp only [State.aligned, State.Misaligned, Bool.or_eq_false_iff, Bool.and_eq_false_iff, Bool.not_eq_false',
    beq_eq_false_iff_ne, ne_eq, Cfg.container_eq_one_iff, getLsbD_zero_iff_odd, or_assoc]

/-- The geometry checks fail exactly on the jobs that R205 names. -/
theorem geometryOk_eq_false_iff : s.geometryOk lay uv = false ↔ s.BadGeometry lay uv := by
  have hwidth : s.pw = 0 ↔ s.job.width = 0 := BitVec.toNat_inj (y := 0#16)
  have hheight : s.bh = 0 ↔ s.job.height = 0 := BitVec.toNat_inj (y := 0#6)
  have hmax : 32 >>> lay.sy < s.bh ↔ 32 / 2 ^ lay.sy < s.job.height.toNat := by rw [Nat.shiftRight_eq_div_pow]; rfl
  simp only [State.geometryOk, State.BadGeometry, Bool.and_eq_false_iff, decide_eq_false_iff_not, not_not, not_le, hwidth,
    hheight, hmax, aligned_eq_false_iff, or_assoc]

/-- A job that fails its geometry checks is rejected before any access. -/
theorem exec_apply_of_badGeometry (hf : applyForm s i = some (lay, uv, p, t)) (hdepth : s.frame.cfg.bitdepth ≠ 3)
    (hgeometry : s.geometryOk lay uv = false) : exec i s = .next (s.afterFault .badGeometry (encode i) 0) := by
  simp [exec_apply hf, applyBand, Cfg.depthIllegal_eq_false hdepth, hgeometry, State.raise_eq]

/-- An APPLY command that passes its geometry checks and ends in a next state was admitted. -/
theorem bandAdmitted_of_exec_next (hf : applyForm s i = some (lay, uv, p, t)) (hdepth : s.frame.cfg.bitdepth ≠ 3)
    (hgeometry : s.geometryOk lay uv = true) (h : exec i s = .next u) : s.bandAdmitted lay uv = true := by
  obtain ⟨hoverlap, hdevice⟩ := exec_apply_of_geometryOk hf hdepth hgeometry
  have hfoot : s.footprintOk lay uv = true := by
    rw [← Bool.not_eq_false]
    exact fun hno => nomatch (hoverlap hno).symm.trans h
  have hordinary : s.ordinaryMemory lay uv = true := by
    rw [← Bool.not_eq_false]
    exact fun hno => nomatch (hdevice hfoot hno).symm.trans h
  simp [State.bandAdmitted, Cfg.depthIllegal_eq_false hdepth, hgeometry, hfoot, hordinary]

/-- An admitted APPLY command that ends in a next state has completed, or met BUS_ERROR or SAMPLE_RANGE. -/
theorem exec_apply_admitted_status (hf : applyForm s i = some (lay, uv, p, t)) (ha : s.bandAdmitted lay uv = true)
    (h : exec i s = .next u) :
    u.status = s.afterCompletion.status ∨
      ∃ code a, (code = .busError ∨ code = .sampleRange) ∧ u.status = (s.afterFault code (encode i) a).status := by
  rw [exec_apply hf, applyBand_of_admitted ha] at h
  rcases hsamples : collectSamples (s.applySample i) (bandSamples lay s.pw s.bh) with (⟨code, a⟩ | f) | ws
  · rw [hsamples, finishBand, State.raise_eq] at h
    cases h
    obtain ⟨c, -, hc⟩ := collectSamples_error hsamples
    exact Or.inr ⟨code, a, applySample_hardware hc, rfl⟩
  · rw [hsamples] at h
    cases h
  · rw [hsamples] at h
    cases h
    exact Or.inl rfl

end

/-- Settles O29: the checks fail exactly on the bad jobs, and a job that passes them can only fault at an access. -/
theorem badGeometryIsRejected : Obligations.BadGeometryIsRejected := by
  intro i s lay uv p t hf hdepth bad
  have hbad : s.geometryOk lay uv = false ↔ bad := geometryOk_eq_false_iff
  refine ⟨fun h => exec_apply_of_badGeometry hf hdepth (hbad.mpr h), fun h hnofault u hu ⟨hfault, hcode⟩ => ?_⟩
  have hgeometry : s.geometryOk lay uv = true := by
    rw [← Bool.not_eq_false]
    exact fun hno => h (hbad.mp hno)
  have ha := bandAdmitted_of_exec_next hf hdepth hgeometry hu
  rcases exec_apply_admitted_status hf ha hu with hstatus | ⟨code, a, haccess, hstatus⟩
  · simp [hstatus, hnofault] at hfault
  · rcases haccess with rfl | rfl <;> simp [hstatus, hnofault] at hcode

/-! Host accesses while BUSY = 1 (60_exceptions.md R203, R206) -/

theorem setWidth_offset (o : BitVec 18) : (o.setWidth 16).setWidth 32 = BitVec.ofNat 32 (o.toNat % 65536) := by
  apply BitVec.eq_of_toNat_eq
  simp

/-- Settles O45: the write is dropped and recorded, and a read changes only the answer and the model's counter. -/
theorem busyWritesAreDroppedAndReported : Obligations.BusyWritesAreDroppedAndReported := by
  intro s o v rest hbusy ho
  refine ⟨fun hctrl hstatus he => ?_, fun he => ?_⟩
  · rw [step_of_event he]
    refine congrArg Host.Outcome.next ((hostWrite_dropped (s := s.setEvents rest) ho hbusy hctrl hstatus v).trans ?_)
    rw [State.recordFault_eq, setWidth_offset, ← hbusy]
    rfl
  · refine ⟨hostRead 32 o (s.setEvents rest), step_of_event he, ?_⟩
    rw [hostRead_eq]
    exact ⟨rfl, rfl, rfl, rfl⟩

/-! The idle block (60_exceptions.md R201, R220) -/

/-- Settles O52: the move left to such a block is the engine's, which has no command. -/
theorem idleBlockIsQuiescent : Obligations.IdleBlockIsQuiescent := by
  intro s hevents hcommand
  rw [step_of_no_event hevents, engineStep_idle hcommand]

end Sys2Proof.Machine
end
